-- ==== Sys2Proof/Word.lean ====
section
/-! DEFINITION. The word types of the block (spec/00_scope.md R5, R8). -/

namespace Sys2Proof

/-- One byte of any of the byte spaces (spec/20_memory.md R50). -/
abbrev Byte := BitVec 8

/-- A 32-bit word: command and operand words, R0 to R2, cursors (spec/00_scope.md R5, spec/30_encoding.md R70). -/
abbrev Word := BitVec 32

end Sys2Proof
end

