-- ==== Sys2Proof/Config.lean ====
section
/-! DEFINITION. The parameters of a model instance (spec/00_scope.md R4) and the free values (no body: nothing can
evaluate them). -/

namespace Sys2Proof

/-- `E8_MODE` (spec/00_scope.md R4, spec/92_eei_decisions.md D19). -/
inductive Config.E8Mode where
  | translate
  | reject
deriving DecidableEq, Repr

/-- `WINDOW_INIT` (spec/00_scope.md R4, spec/92_eei_decisions.md D16). -/
inductive Config.WindowInit where
  | unspecified
  | fill (v : Byte)
deriving DecidableEq, Repr

/-- `PHANTOM_FETCH` (spec/00_scope.md R4, spec/92_eei_decisions.md D4). -/
inductive Config.PhantomFetch where
  | draw
  | fault
deriving DecidableEq, Repr

/-- The parameters that are fixed for the life of an instance (spec/00_scope.md R4); `WINDOW_BITS` is an operand. Held in
State (DESIGN CHOICE, log 1, safe). -/
structure Config.Params where
  e8Mode       : Config.E8Mode
  windowInit   : Config.WindowInit
  phantomFetch : Config.PhantomFetch
deriving DecidableEq, Repr

/-- The defaults of spec/00_scope.md R4. -/
def Config.Params.default : Config.Params :=
  { e8Mode := .translate, windowInit := .unspecified, phantomFetch := .draw }

/-- Free value: the content of a register that spec/10_state.md R41 leaves unspecified after a failed INIT. The
argument is the number of the draw. Log 8. -/
opaque Config.unspecifiedWord : Nat → Word

/-- Free value: what a 32-bit element holds when a rule gives it an integer of 2^32 or more, which no rule states. The
argument is that integer. Log 12. -/
opaque Config.overflowWord : Nat → Word

/-- Free value: an operand word that a transaction's command asks for (spec/30_encoding.md R71) and the host has not
supplied. The arguments are the number of the draw and the word's index. Log 25. -/
opaque Config.unsuppliedOperand : Nat → Nat → Word

/-- Free value: a byte of a command's byte sequence (spec/30_encoding.md R71) that the host has not supplied. The
arguments are the number of the draw and the byte's index. Log 25. -/
opaque Config.unsuppliedByte : Nat → Nat → Byte

end Sys2Proof
end

