-- ==== Sys2Proof/Syntax.lean ====
section
/-! DEFINITION. The two languages of the block (spec/00_scope.md R7): the instructions, one constructor per row of
spec/opcode_table.json, and the opcode words of its formats (spec/30_encoding.md R93). -/

namespace Sys2Proof

/-- One command as the host hands it over: the 32-bit command word, its operand words and its byte sequence
(spec/30_encoding.md R70, R71). Transaction level: DESIGN CHOICE, log 3, safe. -/
structure HostCommand where
  word     : Word
  operands : List Word
  bytes    : List Byte
deriving DecidableEq, Repr

/-- The instructions. An instruction's operands are what its row's decoded value gives (spec/30_encoding.md R93); the
fields that follow it in the stream are read by its meaning, as its pseudocode does (DESIGN CHOICE, log 4, safe). -/
inductive Instr where
  /-- INIT, R141. -/
  | init (windowBits : BitVec 8)
  /-- DECOMPRESS, R142; `in_len` is the number of bytes of the chunk. -/
  | decompress (outLen : Word) (chunk : List Byte)
  /-- SEQ_RUN, R231; `compressed_len` is the number of bytes of the payload. -/
  | seqRun (decompressedLen : Word) (payload : List Byte)
  /-- READ_STATE, R155. -/
  | readState (id : BitVec 8)
  /-- CMD.RESERVED, R156: the whole refused command word. -/
  | cmdReserved (word : Word)
  /-- HDR.NOE8, R170. -/
  | hdrNoE8
  /-- HDR.E8, R170. -/
  | hdrE8
  /-- BLK.VERBATIM, R173. -/
  | blkVerbatim
  /-- BLK.ALIGNED, R174. -/
  | blkAligned
  /-- BLK.UNCOMPRESSED, R179. -/
  | blkUncompressed
  /-- BLK.INVALID0, R181. -/
  | blkInvalid0
  /-- BLK.INVALID4_7, R181: the type field, 4 to 7. -/
  | blkInvalid4to7 (blockType : BitVec 3)
  /-- ALN.LENS, R189. -/
  | alnLens
  /-- PRE.LENS, R190. -/
  | preLens
  /-- PRE.DELTA, R183: the pre-tree symbol, 0 to 16. -/
  | preDelta (z : BitVec 5)
  /-- PRE.ZRUN4, R184. -/
  | preZrun4
  /-- PRE.ZRUN20, R185. -/
  | preZrun20
  /-- PRE.SAME, R187. -/
  | preSame
  /-- MAIN.LIT, R201: the literal byte. -/
  | mainLit (b : Byte)
  /-- MAIN.MATCH.R0, R205: the length header. -/
  | mainMatchR0 (lh : BitVec 3)
  /-- MAIN.MATCH.R1, R206. -/
  | mainMatchR1 (lh : BitVec 3)
  /-- MAIN.MATCH.R2, R207. -/
  | mainMatchR2 (lh : BitVec 3)
  /-- MAIN.MATCH.ONE, R208. -/
  | mainMatchOne (lh : BitVec 3)
  /-- MAIN.MATCH.VERB, R209: position slot 4 to 49 and length header. -/
  | mainMatchVerb (slot : BitVec 6) (lh : BitVec 3)
  /-- MAIN.MATCH.ALGN, R210: position slot 4 to 49 and length header. -/
  | mainMatchAlgn (slot : BitVec 6) (lh : BitVec 3)
  /-- LEN.FOOTER, R203: the length-tree symbol, 0 to 249. -/
  | lenFooter (f : BitVec 8)
  /-- ALN.SYM, R211: the aligned-tree symbol. -/
  | alnSym (a : BitVec 3)
  /-- UNC.PAD, R171. -/
  | uncPad
  /-- UNC.HDR, R180. -/
  | uncHdr
  /-- UNC.BYTE, R220. -/
  | uncByte
  /-- FRM.STD, R233: the first header byte, not 0xFF. -/
  | frmStd (h0 : Byte)
  /-- FRM.EXPLICIT, R234. -/
  | frmExplicit
deriving DecidableEq, Repr

/-- An opcode word: the decoded value of one format of the opcode table (spec/30_encoding.md R93). The rows that the
state selects and no value (mask 0) have a constructor without a value. -/
inductive OpWord where
  /-- CMD: a host command, and the number of the free values that stand for what the host has not supplied of it (log
  25). -/
  | cmd (c : HostCommand) (draw : Nat)
  /-- HDR: the 1-bit `e8_flag` field. -/
  | hdr (f : BitVec 1)
  /-- BLK: the 3-bit `block_type` field. -/
  | blk (t : BitVec 3)
  /-- BLK: the state right after an ALIGNED block header. -/
  | alnLens
  /-- PRE: the state at the head of a tree-length record. -/
  | preLens
  /-- PRE: a decoded pre-tree symbol. -/
  | pre (z : BitVec 5)
  /-- MAIN: a decoded main symbol, in a block of the given type. -/
  | main (blockType : BitVec 3) (s : BitVec 10)
  /-- LEN: a decoded length-tree symbol. -/
  | len (f : BitVec 8)
  /-- ALN: a decoded aligned-tree symbol. -/
  | aln (a : BitVec 3)
  /-- RAW: the state at a header after an UNCOMPRESSED block of odd length. -/
  | uncPad
  /-- RAW: the state right after an UNCOMPRESSED block header. -/
  | uncHdr
  /-- RAW: the state inside an UNCOMPRESSED block. -/
  | uncByte
  /-- FRM: the first byte of a frame header. -/
  | frm (h0 : Byte)
deriving DecidableEq, Repr

end Sys2Proof
end

