-- ==== Sys2Proof/Machine/State.lean ====
section
/-! DEFINITION. The state of the block (spec/10_state.md), plain data, and its value at power-on (R41). -/

namespace Sys2Proof.Machine

/-- A lean fault: the model stops. Both are raised only in states that no run from reset reaches. -/
inductive Fault where
  /-- A window access at an address that is not below WS (spec/20_memory.md R55, R56: no such byte). Raised by
  `winRead` and `winWrite`. Safe. Log 17. -/
  | windowAddress (addr : Nat)
  /-- 16 bits that are no code of a decode table; a table that Build returns has none (spec/41_huffman.md R125). Raised
  by `decodeSym`. Safe. Log 17. -/
  | noSuchCode
deriving DecidableEq, Repr

/-- A refusal: what is asked of the machine has no meaning in the spec. -/
inductive Refusal where
  /-- An instruction whose arm in `exec` has no meaning yet. Raised by `exec` only. Safe. -/
  | notModelled (mnemonic : String)
  /-- An element outside the state the grammar is in: "A token has no meaning outside the state the grammar of rule R73
  is in" (spec/30_encoding.md R94). Raised by the meanings of stream elements. Safe. Log 5. -/
  | outsideGrammar
  /-- A command issued before the one before it has returned (spec/70_reset_and_hazards.md R285,
  spec/93_implementation_defined.md I11: refuse). Raised by the meanings of commands. Safe. Log 6. -/
  | commandWhileBusy
  /-- A decoded symbol outside its alphabet; no table Build returns gives one. Raised by the fetch. Safe. Log 17. -/
  | symbolOutsideAlphabet
deriving DecidableEq, Repr

/-- `status` (spec/10_state.md R35). -/
inductive Status where
  | uninit
  | ready
  | faulted
deriving DecidableEq, Repr

/-- The status registers (spec/10_state.md R35). -/
structure StatusRegs where
  status   : Status
  errCode  : BitVec 4
  errSub   : BitVec 4
  errPos   : Word
  errFrame : BitVec 16
deriving DecidableEq, Repr

/-- Sparse contents of an array of `w`-bit entries: (index, entry) pairs, indices strictly rising, no entry equal to
what an unlisted index reads as. -/
abbrev Cells (w : Nat) := List (Nat × BitVec w)

/-- One code of a canonical Huffman code: `sym` has the `len`-bit code `code` (spec/41_huffman.md R121). -/
structure CodeEntry where
  sym  : Nat
  len  : Nat
  code : Nat
deriving DecidableEq, Repr

/-- A decode table: EMPTY or a canonical code (spec/10_state.md R44). -/
inductive DecodeTable where
  | empty
  | codes (entries : List CodeEntry)
deriving DecidableEq, Repr

/-- Configuration and persistent decoder state (spec/10_state.md R21 to R34, R44) and `written` (R36). -/
structure Decoder where
  wb             : BitVec 5
  windowPos      : BitVec 22
  r0             : Word
  r1             : Word
  r2             : Word
  blockType      : BitVec 3
  blockLength    : BitVec 24
  blockRemaining : BitVec 24
  headerRead     : Bool
  framesRead     : BitVec 16
  e8FileSize     : Word
  e8CurPos       : Word
  e8Started      : Bool
  window         : List Host.Cell
  written        : Nat
  mainLen        : Cells 5
  lengthLen      : Cells 5
  alignedLen     : Cells 3
  preLen         : Cells 4
  preTable       : DecodeTable
  mainTable      : DecodeTable
  lengthTable    : DecodeTable
  alignedTable   : DecodeTable
deriving DecidableEq, Repr

/-- The two modes of the input cursor (spec/10_state.md R27). -/
inductive CursorMode where
  | bit
  | raw
deriving DecidableEq, Repr

/-- The input cursor (spec/10_state.md R27). -/
structure Cursor where
  mode    : CursorMode
  segBase : Word
  c       : Word
  inPos   : Word
deriving DecidableEq, Repr

/-- The registers of a SEQ_RUN in progress (spec/45_frame_sequencer.md R232): payload P, `pos`, `decompressed_len` and
OUT. `pos` has no width in the spec (DESIGN CHOICE, log 21, safe). -/
structure SeqRegs where
  payload         : List Byte
  pos             : Nat
  decompressedLen : Word
  out             : List Byte
deriving DecidableEq, Repr

/-- The three tree-length records of a VERBATIM or ALIGNED header, in order (spec/30_encoding.md R80). -/
inductive Record where
  | main1
  | main2
  | length
deriving DecidableEq, Repr

/-- Where the grammar stands (spec/30_encoding.md R73, R92): which element or which rule of the sequencer is next. -/
inductive Phase where
  /-- between commands -/
  | idle
  /-- R232: the loop test of SEQ_RUN -/
  | seqLoop
  /-- R233, R234: a frame header is next -/
  | frameHdr
  /-- R237: after the loop of SEQ_RUN -/
  | seqFinish
  /-- R170: the stream header is next -/
  | streamHdr
  /-- R143: the loop tests of MainLoop -/
  | mainLoop
  /-- R171: the pad byte is next -/
  | uncPad
  /-- R172: a block header is next -/
  | blockHdr
  /-- R189: the aligned lengths are next -/
  | alnLens
  /-- R190: the pre-tree lengths of a record are next -/
  | preLens (r : Record)
  /-- R177: inside a record, at index x -/
  | record (r : Record) (x : Nat)
  /-- R180: the repeated offsets of an UNCOMPRESSED header are next -/
  | uncHdr
  /-- R144: inside a run -/
  | runLoop
  /-- R203: the length footer of a match of this slot is next -/
  | footer (slot : BitVec 6)
  /-- R211: the aligned symbol of a match of this length is next; `base` is its offset less the symbol -/
  | alignedSym (length : Nat) (base : Nat)
  /-- R146: FrameOutput -/
  | frameOutput
  /-- R149: the E8 pass -/
  | e8Pass
  /-- R152, R148: the end of DECOMPRESS -/
  | deliver
deriving DecidableEq, Repr

/-- What a command returns beside its status (spec/30_encoding.md R71). -/
inductive ReplyData where
  | none
  | value (v : Word)
  | output (bytes : List Byte)
deriving DecidableEq, Repr

/-- A command's result as the host receives it (spec/30_encoding.md R71, spec/20_memory.md R58). -/
structure Reply where
  status : BitVec 4
  data   : ReplyData
deriving DecidableEq, Repr

/-- The state of the block, with the host's side of its interface (`pending`, `replies`, log 3), the grammar state
(`phase`, log 2) and the counter of free values (`draws`, log 8, log 13). -/
structure State where
  params  : Config.Params
  stat    : StatusRegs
  dec     : Decoder
  cur     : Cursor
  chunk   : List Byte
  outLen  : Word
  togo    : Word
  run     : Nat
  out     : List Byte
  seq     : Option SeqRegs
  phase   : Phase
  pending : List HostCommand
  replies : List Reply
  draws   : Nat
deriving DecidableEq, Repr

/-- Power-on (spec/10_state.md R41, spec/70_reset_and_hazards.md R280): status UNINIT and the error registers 0. Every
other element is unspecified there and is 0 or empty here (DESIGN CHOICE, log 7, unsafe). -/
def State.reset : State :=
  { params := Config.Params.default
    stat := { status := .uninit, errCode := 0, errSub := 0, errPos := 0, errFrame := 0 }
    dec :=
      { wb := 0, windowPos := 0, r0 := 0, r1 := 0, r2 := 0, blockType := 0, blockLength := 0, blockRemaining := 0,
        headerRead := false, framesRead := 0, e8FileSize := 0, e8CurPos := 0, e8Started := false,
        window := [], written := 0, mainLen := [], lengthLen := [], alignedLen := [], preLen := [],
        preTable := .empty, mainTable := .empty, lengthTable := .empty, alignedTable := .empty }
    cur := { mode := .bit, segBase := 0, c := 0, inPos := 0 }
    chunk := [], outLen := 0, togo := 0, run := 0, out := []
    seq := none, phase := .idle, pending := [], replies := [], draws := 0 }

end Sys2Proof.Machine
end

