-- ==== Sys2Proof/Machine/Ops.lean ====
section
/-! DEFINITION. The shared operations: raising an error and entering FAULTED (spec/60_exceptions.md R257), leaving it by
INIT (R255), replies, sparse arrays, the window, the repeated offsets, the length arrays. -/

namespace Sys2Proof.Machine

/-! ### Errors (spec/60_exceptions.md R250, R251) -/

/-- The sub-causes of MalformedHuffmanTable (R251). -/
inductive TableCause where
  | oversubscribed
  | incomplete
  | emptyTree
  | badSameSymbol
deriving DecidableEq, Repr

/-- The sub-causes of WindowOverrun (R251). -/
inductive OverrunCause where
  | runCrosses
  | matchCrosses
  | offsetZero
  | offsetBeyond
  | notContiguous
deriving DecidableEq, Repr

/-- The errors (R250). `notReady` and `illegalCommand` are returned by refused commands and never raised (R256). -/
inductive Err where
  | unsupportedWindowSize
  | malformedHuffmanTable (cause : TableCause)
  | invalidBlockType
  | windowOverrun (cause : OverrunCause)
  | truncatedInput
  | lengthMismatch
  | sizeMismatch
  | e8Unsupported
  | notReady
  | unwrittenWindowRead
  | illegalCommand
deriving DecidableEq, Repr

/-- The code of an error (R250). -/
def errCode : Err → BitVec 4
  | .unsupportedWindowSize => 1
  | .malformedHuffmanTable _ => 2
  | .invalidBlockType => 3
  | .windowOverrun _ => 4
  | .truncatedInput => 5
  | .lengthMismatch => 6
  | .sizeMismatch => 7
  | .e8Unsupported => 8
  | .notReady => 9
  | .unwrittenWindowRead => 10
  | .illegalCommand => 11

/-- The sub-cause of an error, 0 where R251 lists none. -/
def errSub : Err → BitVec 4
  | .malformedHuffmanTable .oversubscribed => 1
  | .malformedHuffmanTable .incomplete => 2
  | .malformedHuffmanTable .emptyTree => 3
  | .malformedHuffmanTable .badSameSymbol => 4
  | .windowOverrun .runCrosses => 1
  | .windowOverrun .matchCrosses => 2
  | .windowOverrun .offsetZero => 3
  | .windowOverrun .offsetBeyond => 4
  | .windowOverrun .notContiguous => 5
  | _ => 0

/-- What ends an operation early: an error of the spec, at the position it names if it names one, or a stop of the
model. -/
inductive Stop where
  | raise (e : Err) (pos : Option Nat)
  | fault (f : Fault)
  | refuse (r : Refusal)
deriving DecidableEq, Repr

/-- Operations over the state. A stop keeps the state as the steps before it left it: nothing is rolled back
(spec/42_commands.md R157, spec/60_exceptions.md R254). -/
abbrev M := EStateM Stop State

/-- `raise E(info)` with the cursor's position (spec/00_scope.md R9, spec/60_exceptions.md R257). -/
def raise {α : Type} (e : Err) : M α := throw (.raise e none)

/-- `raise E(err_pos = pos)`. -/
def raiseAt {α : Type} (e : Err) (pos : Nat) : M α := throw (.raise e (some pos))

/-- An element where the grammar has no place for it (spec/30_encoding.md R94). Log 5. -/
def outsideGrammar {α : Type} : M α := throw (.refuse .outsideGrammar)

/-! ### 32-bit elements -/

/-- The value a 32-bit element takes from an integer: the integer where it fits; a free value where it does not, since
no rule states one. Log 12. -/
def narrow (n : Nat) : Word := if n < 2 ^ 32 then BitVec.ofNat 32 n else Config.overflowWord n

/-! ### Replies and phases -/

/-- The grammar moves on (spec/30_encoding.md R73). -/
def State.goto (s : State) (p : Phase) : State := { s with phase := p }

/-- The block returns a result to the host and is idle (spec/42_commands.md R140). -/
def State.reply (s : State) (r : Reply) : State := { s with phase := .idle, replies := s.replies ++ [r] }

def goto (p : Phase) : M Unit := modify fun s => s.goto p

def reply (status : BitVec 4) (data : ReplyData) : M Unit := modify fun s => s.reply { status := status, data := data }

/-! ### Taking an exception, and leaving FAULTED -/

/-- The cursor as a position in bits: `8*seg_base + C` in bit mode, `8*in_pos` in raw mode (spec/10_state.md R35,
spec/60_exceptions.md R257). -/
def Cursor.position (c : Cursor) : Nat :=
  match c.mode with
  | .bit => 8 * c.segBase.toNat + c.c.toNat
  | .raw => 8 * c.inPos.toNat

/-- Fault entry (spec/60_exceptions.md R257): FAULTED, the four error registers, no output, the code as the command's
result. Everything else keeps its value. -/
def State.enterFault (s : State) (e : Err) (pos : Option Nat) : State :=
  ({ s with
      stat :=
        { status := .faulted
          errCode := errCode e
          errSub := errSub e
          errPos := narrow (pos.getD s.cur.position)
          errFrame := s.dec.framesRead } }).reply { status := errCode e, data := .none }

/-- The result of running an operation to its end: an error of the spec is taken, not a stop of the machine. -/
def complete (m : M Unit) (s : State) : Host.Outcome State Fault Refusal :=
  match m.run s with
  | .ok _ t => .next t
  | .error (.raise e pos) t => .next (t.enterFault e pos)
  | .error (.fault f) _ => .fault f
  | .error (.refuse r) _ => .refused r

/-- What an unlisted byte of the window reads as: the WINDOW_INIT parameter (spec/10_state.md R22, spec/20_memory.md
R56). Log 10. -/
def windowBackground (p : Config.Params) : Option Byte :=
  match p.windowInit with
  | .unspecified => none
  | .fill v => some v

/-- WS (spec/10_state.md R21). -/
def windowSize (wb : BitVec 5) : Nat := 2 ^ wb.toNat

/-- `written` after INIT (spec/10_state.md R36). -/
def initialWritten (p : Config.Params) (wb : BitVec 5) : Nat :=
  match p.windowInit with
  | .unspecified => 0
  | .fill _ => windowSize wb

/-- The decoder state after a successful INIT (spec/10_state.md R40). `aligned_len` and `pre_len`, which R40 leaves
unspecified and unobservable, are 0 (log 9). -/
def initialDecoder (p : Config.Params) (wb : BitVec 5) : Decoder :=
  { wb := wb, windowPos := 0, r0 := 1, r1 := 1, r2 := 1, blockType := 0, blockLength := 0, blockRemaining := 0,
    headerRead := false, framesRead := 0, e8FileSize := 0, e8CurPos := 0, e8Started := false,
    window := [], written := initialWritten p wb, mainLen := [], lengthLen := [], alignedLen := [], preLen := [],
    preTable := .empty, mainTable := .empty, lengthTable := .empty, alignedTable := .empty }

/-- The one way out of FAULTED (spec/60_exceptions.md R255, R258): INIT's new stream (spec/42_commands.md R141). -/
def State.startStream (s : State) (wb : BitVec 5) : State :=
  { s with
    dec := initialDecoder s.params wb
    stat := { status := .ready, errCode := 0, errSub := 0, errPos := 0, errFrame := 0 } }

/-- After an INIT that failed every element but the status registers is unspecified (spec/10_state.md R41): the
registers a host can read take free values; what no host can read until the next INIT rewrites it stays. Log 8. -/
def State.unspecify (s : State) : State :=
  let free := fun k => Config.unspecifiedWord (s.draws + k)
  { s with
    dec :=
      { s.dec with
        wb := (free 0).setWidth 5
        windowPos := (free 1).setWidth 22
        r0 := free 2
        r1 := free 3
        r2 := free 4
        blockType := (free 5).setWidth 3
        blockLength := (free 6).setWidth 24
        blockRemaining := (free 7).setWidth 24
        headerRead := (free 8).getLsbD 0
        framesRead := (free 9).setWidth 16
        e8FileSize := free 10
        e8CurPos := free 11
        e8Started := (free 12).getLsbD 0 }
    draws := s.draws + 13 }

/-! ### Sparse arrays -/

/-- The entry at an index; `bg` is what an unlisted index reads as. -/
def readCell {w : Nat} (bg : Option (BitVec w)) : Cells w → Nat → Option (BitVec w)
  | [], _ => bg
  | (k, v) :: rest, a => if a = k then some v else readCell bg rest a

/-- Writing an entry keeps the canonical form: writing what an unlisted index reads as removes the entry. -/
def writeCell {w : Nat} (bg : Option (BitVec w)) : Cells w → Nat → BitVec w → Cells w
  | [], a, v => if bg = some v then [] else [(a, v)]
  | (k, u) :: rest, a, v =>
    if k < a then (k, u) :: writeCell bg rest a v
    else if k = a then (if bg = some v then rest else (a, v) :: rest)
    else (if bg = some v then (k, u) :: rest else (a, v) :: (k, u) :: rest)

/-- The canonical form: indices strictly rising, no entry equal to what an unlisted index reads as. -/
def cellsWf {w : Nat} (bg : Option (BitVec w)) : Cells w → Bool
  | [] => true
  | (k, v) :: rest => decide (bg ≠ some v) && rest.all (fun c => decide (k < c.1)) && cellsWf bg rest

/-- `n` entries from index `x` on, all `v`. -/
def fillCells {w : Nat} (bg : Option (BitVec w)) (m : Cells w) (x : Nat) : Nat → BitVec w → Cells w
  | 0, _ => m
  | n + 1, v => fillCells bg (writeCell bg m x v) (x + 1) n v

/-- A length array's entry; an entry nothing has written is 0 (spec/10_state.md R32). -/
def lenAt {w : Nat} (m : Cells w) (x : Nat) : BitVec w := (readCell (some 0) m x).getD 0

/-! ### The window (spec/20_memory.md R54 to R56) -/

/-- The window's canonical form under the WINDOW_INIT parameter. -/
def Memory.wf (p : Config.Params) (window : List Host.Cell) : Bool := cellsWf (windowBackground p) window

/-- `WinRead(p)` on plain data: the byte, or none where nothing has written it since INIT under Unspecified. -/
def State.windowByte (s : State) (addr : Nat) : Option Byte := readCell (windowBackground s.params) s.dec.window addr

/-- `WinRead(p)` (R56). UnwrittenWindowRead is taken as an error like the others (DEDUCED, log 23, safe). -/
def winRead (addr : Nat) : M Byte := do
  let s ← get
  if windowSize s.dec.wb ≤ addr then throw (.fault (.windowAddress addr))
  match s.windowByte addr with
  | some v => pure v
  | none => raise .unwrittenWindowRead

/-- `WinWrite(window_pos, v)` and the cursor's step that follows every window write (R55). -/
def State.putByte (s : State) (v : Byte) : State :=
  { s with
    dec :=
      { s.dec with
        window := writeCell (windowBackground s.params) s.dec.window s.dec.windowPos.toNat v
        written := min (s.dec.written + 1) (windowSize s.dec.wb)
        windowPos := s.dec.windowPos + 1 } }

/-- A byte to the window at `window_pos` (R55; spec/44_symbols.md R201, R215, R220). -/
def winWrite (v : Byte) : M Unit := do
  let s ← get
  if windowSize s.dec.wb ≤ s.dec.windowPos.toNat then throw (.fault (.windowAddress s.dec.windowPos.toNat))
  set (s.putByte v)

/-- The copy loop of a match (spec/44_symbols.md R215): one byte at a time, the source address modulo WS. -/
def copyBytes (offset : Nat) : Nat → M Unit
  | 0 => pure ()
  | n + 1 => do
    let s ← get
    let src := ((s.dec.windowPos.toNat : Int) - offset) % windowSize s.dec.wb
    let v ← winRead src.toNat
    winWrite v
    copyBytes offset n

/-- `n` window bytes from `addr` on (spec/42_commands.md R146). -/
def readBytes (addr : Nat) : Nat → M (List Byte)
  | 0 => pure []
  | n + 1 => do
    let v ← winRead addr
    let rest ← readBytes (addr + 1) n
    pure (v :: rest)

/-! ### The repeated offsets (spec/44_symbols.md R206 to R210) -/

/-- Slot 1: R0 and R1 change places (R206). -/
def State.swapR1 (s : State) : State := { s with dec := { s.dec with r0 := s.dec.r1, r1 := s.dec.r0 } }

/-- Slot 2: R0 and R2 change places (R207). -/
def State.swapR2 (s : State) : State := { s with dec := { s.dec with r0 := s.dec.r2, r2 := s.dec.r0 } }

/-- A new offset goes to R0, the others move down (R208 to R210). -/
def State.pushOffset (s : State) (offset : Word) : State :=
  { s with dec := { s.dec with r0 := offset, r1 := s.dec.r0, r2 := s.dec.r1 } }

/-! ### The tree-length records (spec/30_encoding.md R80, spec/43_block_headers.md R175) -/

/-- NSLOTS (spec/10_state.md R21). -/
def numSlots (wb : BitVec 5) : Nat :=
  match wb.toNat with
  | 15 => 30
  | 16 => 32
  | 17 => 34
  | 18 => 36
  | 19 => 38
  | 20 => 42
  | 21 => 50
  | _ => 0

/-- MAIN_ELEMENTS (spec/10_state.md R21). -/
def mainElements (wb : BitVec 5) : Nat := 256 + 8 * numSlots wb

/-- The first index of a record's range (R175). -/
def Record.first : Record → Nat
  | .main1 => 0
  | .main2 => 256
  | .length => 0

/-- The end of a record's range (R175). -/
def Record.last (wb : BitVec 5) : Record → Nat
  | .main1 => 256
  | .main2 => mainElements wb
  | .length => 249

/-- The array a record writes (R175). -/
def State.recordLens (s : State) : Record → Cells 5
  | .main1 => s.dec.mainLen
  | .main2 => s.dec.mainLen
  | .length => s.dec.lengthLen

/-- The array a record writes, replaced. -/
def State.setRecordLens (s : State) (m : Cells 5) : Record → State
  | .main1 => { s with dec := { s.dec with mainLen := m } }
  | .main2 => { s with dec := { s.dec with mainLen := m } }
  | .length => { s with dec := { s.dec with lengthLen := m } }

/-- `n` entries of the record's array from `x` on become `v`, past the range's end too, and the record goes on after
them (spec/43_block_headers.md R183 to R187, R186). -/
def State.writeLens (s : State) (r : Record) (x n : Nat) (v : BitVec 5) : State :=
  (s.setRecordLens (fillCells (some 0) (s.recordLens r) x n v) r).goto (.record r (x + n))

/-! ### Where the grammar lets an element stand (spec/30_encoding.md R73, R94) -/

/-- Inside a tree-length record with entries left: the record and the index (R177). -/
def inRecord : M (Record × Nat) := do
  let s ← get
  match s.phase with
  | .record r x => if x < r.last s.dec.wb then pure (r, x) else outsideGrammar
  | _ => outsideGrammar

/-- Inside a run with bytes left (R144), in a block whose type satisfies `ok`. -/
def inRun (ok : BitVec 3 → Bool) : M Unit := do
  let s ← get
  if s.phase = .runLoop ∧ 0 < s.run ∧ ok s.dec.blockType then pure () else outsideGrammar

/-- At one phase. -/
def atPhase (p : Phase) : M Unit := do
  let s ← get
  if s.phase = p then pure () else outsideGrammar

/-- Between commands (spec/42_commands.md R140). Log 6. -/
def betweenCommands : M Unit := do
  let s ← get
  if s.phase = .idle then pure () else throw (.refuse .commandWhileBusy)

end Sys2Proof.Machine
end

