-- ==== Sys2Proof/Machine/BitReader.lean ====
section
/-! DEFINITION. The bit reader (spec/40_bitreader.md). -/

namespace Sys2Proof.Machine

/-- `InByte(i)` (spec/20_memory.md R52): the chunk's byte, or the draw of a phantom byte. -/
def inByte (chunk : List Byte) (draw : Nat → Byte) (i : Nat) : Byte := (chunk[i]?).getD (draw i)

/-- `W(k)`: word k of the segment, the byte at the higher index in its high half (R100). -/
def segWord (chunk : List Byte) (draw : Nat → Byte) (segBase k : Nat) : BitVec 16 :=
  inByte chunk draw (segBase + 2 * k + 1) ++ inByte chunk draw (segBase + 2 * k)

/-- `Bit(b)` (R100). -/
def segBit (chunk : List Byte) (draw : Nat → Byte) (segBase b : Nat) : Bool :=
  (segWord chunk draw segBase (b / 16)).getLsbD (15 - b % 16)

/-- `ByteOf(b)` (R100). -/
def byteOf (segBase b : Nat) : Nat := segBase + 2 * (b / 16) + (if b % 16 < 8 then 1 else 0)

/-- `Bits(b, n)` as a number, its first bit the most significant (R100). -/
def segBits (chunk : List Byte) (draw : Nat → Byte) (segBase b : Nat) : Nat → Nat
  | 0 => 0
  | n + 1 => 2 * segBits chunk draw segBase b n + (segBit chunk draw segBase (b + n)).toNat

/-- The draw the machine reads phantom bytes with. A value read with it is never returned: Consume raises first (R105).
Log 11. -/
def noDraw : Nat → Byte := fun _ => 0

/-- `InitBits()` (R101). -/
def Cursor.initBits (c : Cursor) : Cursor := { c with mode := .bit, segBase := c.inPos, c := 0 }

def initBits : M Unit := modify fun s => { s with cur := s.cur.initBits }

/-- The bytes of words `floor(b/16)` to `floor((b+n-1)/16)` all lie in the chunk; true when n = 0 (R104). -/
def fetchesReal (inLen segBase b n : Nat) : Bool :=
  n == 0 || decide (segBase + 2 * ((b + n - 1) / 16) + 1 < inLen)

/-- `Fetch(b, n)` at the cursor (R104): an error only under PHANTOM_FETCH = Fault. -/
def fetchBits (n : Nat) : M Unit := do
  let s ← get
  if s.params.phantomFetch = .fault ∧ ¬ fetchesReal s.chunk.length s.cur.segBase.toNat s.cur.c.toNat n then
    raiseAt .truncatedInput (8 * s.cur.segBase.toNat + s.cur.c.toNat)

/-- The first of the `n` bits from `b` on that lies in a phantom byte, if one does (R105). -/
def firstPhantom (inLen segBase b : Nat) : Nat → Option Nat
  | 0 => none
  | n + 1 => if inLen ≤ byteOf segBase b then some b else firstPhantom inLen segBase (b + 1) n

/-- `Consume(n)` (R105). -/
def consume (n : Nat) : M Unit := do
  let s ← get
  match firstPhantom s.chunk.length s.cur.segBase.toNat s.cur.c.toNat n with
  | some b => raiseAt .truncatedInput (8 * s.cur.segBase.toNat + b)
  | none => set { s with cur := { s.cur with c := narrow (s.cur.c.toNat + n) } }

/-- `Bits(C, n)` at the cursor. -/
def State.bitsAhead (s : State) (draw : Nat → Byte) (n : Nat) : Nat :=
  segBits s.chunk draw s.cur.segBase.toNat s.cur.c.toNat n

/-- `PeekBits(n)` with the draw of the phantom bytes as an argument (R102). -/
def peekBits (draw : Nat → Byte) (n : Nat) : M Nat := do
  fetchBits n
  let s ← get
  pure (s.bitsAhead draw n)

/-- `ReadBits(n)` with the draw of the phantom bytes as an argument (R103). -/
def readBitsWith (draw : Nat → Byte) (n : Nat) : M (BitVec n) := do
  fetchBits n
  let s ← get
  let v := BitVec.ofNat n (s.bitsAhead draw n)
  consume n
  pure v

/-- `ReadBits(n)` (R103). No draw of phantom bytes changes it (log 11). -/
def readBits (n : Nat) : M (BitVec n) := readBitsWith noDraw n

/-- `AlignToRaw()` (R106). -/
def alignToRaw : M Unit := do
  fetchBits 16
  modify fun s =>
    { s with
      cur :=
        { s.cur with
          mode := .raw
          inPos := narrow (s.cur.segBase.toNat + 2 * (s.cur.c.toNat / 16 + 1))
          c := 0 } }

/-- `ReadRawByte()` (R107). It writes `in_pos` alone: only AlignToRaw (R106) and InitBits (R101) change the cursor's mode
(spec/10_state.md R27). -/
def readRawByte : M Byte := do
  let s ← get
  match s.chunk[s.cur.inPos.toNat]? with
  | none => raiseAt .truncatedInput (8 * s.cur.inPos.toNat)
  | some v =>
    set { s with cur := { s.cur with inPos := narrow (s.cur.inPos.toNat + 1) } }
    pure v

/-- `ReadRaw32()`: four raw bytes, little-endian (R108). -/
def readRaw32 : M Word := do
  let b0 ← readRawByte
  let b1 ← readRawByte
  let b2 ← readRawByte
  let b3 ← readRawByte
  pure (b3 ++ b2 ++ b1 ++ b0)

end Sys2Proof.Machine
end

