-- ==== Sys2Proof/Machine/Operands.lean ====
section
/-! DEFINITION. Every operand form of the stream (spec/30_encoding.md R75 to R91): how fields make values. -/

namespace Sys2Proof.Machine

/-! ### Header fields -/

/-- The E8 file size from its halves, high first: `hi * 65536 + lo` (R75). -/
def fileSize (hi lo : BitVec 16) : Word := hi ++ lo

/-- The block length from its parts: `len_hi * 256 + len_lo` (R76). -/
def blockLen (hi : BitVec 16) (lo : BitVec 8) : BitVec 24 := hi ++ lo

/-- A 16-bit big-endian frame header field (R91). -/
def frameField (hi lo : Byte) : Nat := hi.toNat * 256 + lo.toNat

/-- `frame_size` of FRM.STD (R91). -/
def stdFrameSize : Nat := 32768

/-! ### Tree-length records (R82) -/

/-- `(len - z) mod 17`, the code length a delta gives (R82, spec/43_block_headers.md R183). -/
def deltaLen (len : BitVec 5) (z : Nat) : BitVec 5 := BitVec.ofNat 5 (((len.toNat : Int) - z) % 17).toNat

/-- The count of PRE.ZRUN4: `4 + y` (R82). -/
def zrun4Count (y : BitVec 4) : Nat := 4 + y.toNat

/-- The count of PRE.ZRUN20: `20 + y` (R82). -/
def zrun20Count (y : BitVec 5) : Nat := 20 + y.toNat

/-- The count of PRE.SAME: `4 + y` (R82). -/
def sameCount (y : BitVec 1) : Nat := 4 + y.toNat

/-! ### Match length and offset -/

/-- The match length: `lh + f + 2`, with f = 0 for lh < 7 (R84, spec/44_symbols.md R204). -/
def matchLength (lh : BitVec 3) (f : Nat) : Nat := lh.toNat + f + 2

/-- `EXTRA_BITS[slot]` (R86). -/
def extraBits (slot : Nat) : Nat := if slot < 4 then 0 else if slot < 36 then slot / 2 - 1 else 17

/-- `POSITION_BASE[slot]` by its recurrence, which defines it (R87); the table printed in R87 differs from it for slots 33
to 43 (DEDUCED, log 24, unsafe). -/
def positionBase : Nat → Nat
  | 0 => 0
  | s + 1 => positionBase s + 2 ^ extraBits s

/-- A VERBATIM offset: `POSITION_BASE[slot] - 2 + v` (R85, spec/44_symbols.md R209). -/
def verbOffset (slot v : Nat) : Nat := positionBase slot - 2 + v

/-- The part of an ALIGNED offset that the verbatim bits give, EB > 3: `POSITION_BASE[slot] - 2 + 8v` (R85,
spec/44_symbols.md R210). The aligned symbol is added to it. -/
def alignedBase (slot v : Nat) : Nat := positionBase slot - 2 + 8 * v

/-! ### E8 operands -/

/-- `s32` of four bytes, least significant first (R8, spec/42_commands.md R150). -/
def s32Bytes (b0 b1 b2 b3 : Byte) : Int := (b3 ++ b2 ++ b1 ++ b0 : BitVec 32).toInt

/-- The four bytes of `u32(x)`, least significant first (R8, spec/42_commands.md R150). -/
def u32Bytes (x : Int) : List Byte :=
  let w := BitVec.ofInt 32 x
  [w.extractLsb' 0 8, w.extractLsb' 8 8, w.extractLsb' 16 8, w.extractLsb' 24 8]

/-! ### The register view (spec/10_state.md R39) -/

/-- The number of a status (R39, id 0x00). -/
def statusNumber : Status → Word
  | .uninit => 0
  | .ready => 1
  | .faulted => 2

/-- The 32-bit value of a register; a reserved id reads as 0 (R39). -/
def State.register (s : State) (id : BitVec 8) : Word :=
  match id.toNat with
  | 0x00 => statusNumber s.stat.status
  | 0x01 => s.stat.errCode.setWidth 32
  | 0x02 => s.stat.errSub.setWidth 32
  | 0x03 => s.stat.errPos
  | 0x04 => s.stat.errFrame.setWidth 32
  | 0x05 => s.dec.wb.setWidth 32
  | 0x06 => s.dec.windowPos.setWidth 32
  | 0x07 => s.dec.r0
  | 0x08 => s.dec.r1
  | 0x09 => s.dec.r2
  | 0x0A => s.dec.blockType.setWidth 32
  | 0x0B => s.dec.blockLength.setWidth 32
  | 0x0C => s.dec.blockRemaining.setWidth 32
  | 0x0D => if s.dec.headerRead then 1 else 0
  | 0x0E => s.dec.framesRead.setWidth 32
  | 0x0F => s.dec.e8FileSize
  | 0x10 => s.dec.e8CurPos
  | 0x11 => if s.dec.e8Started then 1 else 0
  | _ => 0

end Sys2Proof.Machine
end

