-- ==== Sys2Proof/Machine/Flags.lean ====
section
/-! DEFINITION. The one-bit state elements (spec/10_state.md R38) and the conditions computed from them. The block has
no condition codes. -/

namespace Sys2Proof.Machine

/-- The stream header has been read (spec/43_block_headers.md R170): `e8_filesize` and `header_read`. -/
def State.setHeader (s : State) (size : Word) : State :=
  { s with dec := { s.dec with e8FileSize := size, headerRead := true } }

/-- `e8_started` is set at an UNCOMPRESSED header (spec/43_block_headers.md R179). -/
def State.startE8 (s : State) : State := { s with dec := { s.dec with e8Started := true } }

/-- `e8_started` when a main tree is built: set if literal 0xE8 has a code, else as it was (spec/43_block_headers.md
R176). -/
def e8StartedBy (mainLen : Cells 5) (old : Bool) : Bool := old || decide (lenAt mainLen 0xE8 ≠ 0)

/-- The E8 condition (spec/42_commands.md R149). -/
def State.e8Condition (s : State) : Bool :=
  decide (s.dec.framesRead.toNat < 32768) && decide (s.dec.e8FileSize ≠ 0)

/-- Whether the frame is only counted, not translated (spec/42_commands.md R149). -/
def State.e8CountOnly (s : State) : Bool := decide (s.outLen.toNat ≤ 6) || !s.dec.e8Started

/-- A block header that follows an UNCOMPRESSED block of odd length has a pad byte before it (spec/43_block_headers.md
R171). -/
def State.padDue (s : State) : Bool := decide (s.dec.blockType = 3) && decide (s.dec.blockLength.toNat % 2 = 1)

end Sys2Proof.Machine
end

