-- ==== Sys2Proof/Machine/Commands.lean ====
section
/-! DEFINITION. The host commands (spec/42_commands.md, spec/45_frame_sequencer.md R231): INIT, DECOMPRESS, SEQ_RUN,
READ_STATE, CMD.RESERVED. -/

namespace Sys2Proof.Machine

/-- The start of a DECOMPRESS (R142): the cursor at bit 0 of the chunk, `togo`, and the stream header first if it has
not been read. -/
def State.startFrame (s : State) (chunk : List Byte) (outLen : Word) : State :=
  { s with
    chunk := chunk
    outLen := outLen
    togo := outLen
    cur := ({ s.cur with inPos := 0 } : Cursor).initBits
    phase := if s.dec.headerRead then .mainLoop else .streamHdr }

/-- INIT (R141): a window size outside 15 to 21 raises UnsupportedWindowSize and leaves every element but the status
registers unspecified; any other starts a new stream. -/
def execInit (windowBits : BitVec 8) (s : State) : Host.Outcome State Fault Refusal :=
  complete (do
    betweenCommands
    if windowBits.toNat < 15 ∨ 21 < windowBits.toNat then
      let s ← get
      set (s.enterFault .unsupportedWindowSize (some 0)).unspecify
    else
      modify fun s => s.startStream (windowBits.setWidth 5)
      reply 0 .none) s

/-- DECOMPRESS (R142), refused with NotReady unless READY (R256). -/
def execDecompress (outLen : Word) (chunk : List Byte) (s : State) : Host.Outcome State Fault Refusal :=
  complete (do
    betweenCommands
    let s ← get
    if s.stat.status ≠ .ready then reply (errCode .notReady) .none
    else set ({ s with seq := none } |>.startFrame chunk outLen)) s

/-- SEQ_RUN (R231, R232), refused with NotReady unless READY (R256). -/
def execSeqRun (decompressedLen : Word) (payload : List Byte) (s : State) : Host.Outcome State Fault Refusal :=
  complete (do
    betweenCommands
    let s ← get
    if s.stat.status ≠ .ready then reply (errCode .notReady) .none
    else
      let q : SeqRegs := { payload := payload, pos := 0, decompressedLen := decompressedLen, out := [] }
      set ({ s with seq := some q }.goto .seqLoop)) s

/-- READ_STATE (R155): status OK and the register's value, in every status; writes nothing. -/
def execReadState (id : BitVec 8) (s : State) : Host.Outcome State Fault Refusal :=
  complete (do
    betweenCommands
    let s ← get
    reply 0 (.value (s.register id))) s

/-- CMD.RESERVED (R156): refused with IllegalCommand, changing nothing. -/
def execCmdReserved (_word : Word) (s : State) : Host.Outcome State Fault Refusal :=
  complete (do
    betweenCommands
    reply (errCode .illegalCommand) .none) s

end Sys2Proof.Machine
end

