-- ==== Sys2Proof/Machine/Frames.lean ====
section
/-! DEFINITION. Frame headers of a SEQ_RUN payload (spec/45_frame_sequencer.md R233 to R236). -/

namespace Sys2Proof.Machine

/-- At a frame header: the registers of the SEQ_RUN in progress. -/
def atFrameHdr : M SeqRegs := do
  let s ← get
  match s.phase, s.seq with
  | .frameHdr, some q => pure q
  | _, _ => outsideGrammar

/-- A byte of the payload that the bounds check before it has found to exist (R233, R234). -/
def SeqRegs.byte (q : SeqRegs) (i : Nat) : Byte := (q.payload[i]?).getD 0

/-- The bounds check of a frame header of `n` bytes at `pos` (R233, R234, R236). -/
def frameBytes (q : SeqRegs) (n : Nat) : M Unit :=
  if q.payload.length < q.pos + n then raiseAt .truncatedInput (8 * q.pos) else pure ()

/-- After a frame header (R232): past it; the end of the payload for a zero size (R235); else the bounds check of the
chunk (R236) and the frame's DECOMPRESS. -/
def startFrameAt (q : SeqRegs) (hdrLen frameSize blockSize : Nat) : M Unit := do
  let pos := q.pos + hdrLen
  modify fun s => { s with seq := some { q with pos := pos } }
  if blockSize = 0 ∨ frameSize = 0 then goto .seqFinish
  else if q.payload.length < pos + blockSize then raiseAt .truncatedInput (8 * pos)
  else modify fun s => s.startFrame ((q.payload.drop pos).take blockSize) (BitVec.ofNat 32 frameSize)

/-- FRM.STD (R233). -/
def execFrmStd (h0 : Byte) (s : State) : Host.Outcome State Fault Refusal :=
  complete (do
    let q ← atFrameHdr
    frameBytes q 2
    startFrameAt q 2 stdFrameSize (frameField h0 (q.byte (q.pos + 1)))) s

/-- FRM.EXPLICIT (R234). -/
def execFrmExplicit (s : State) : Host.Outcome State Fault Refusal :=
  complete (do
    let q ← atFrameHdr
    frameBytes q 5
    startFrameAt q 5 (frameField (q.byte (q.pos + 1)) (q.byte (q.pos + 2)))
      (frameField (q.byte (q.pos + 3)) (q.byte (q.pos + 4)))) s

end Sys2Proof.Machine
end

