-- ==== Sys2Proof/Machine/Huffman.lean ====
section
/-! DEFINITION. The canonical Huffman decoder (spec/41_huffman.md): Build and DecodeSym. -/

namespace Sys2Proof.Machine

/-! ### Build -/

/-- A length array cut to its alphabet: (symbol, length) for the symbols below `n` with a non-zero length, in index order
(R120). -/
def codeLens {w : Nat} (m : Cells w) (n : Nat) : List (Nat × Nat) :=
  (m.filter fun c => decide (c.1 < n) && decide (c.2 ≠ 0)).map fun c => (c.1, c.2.toNat)

/-- One length L of R121's loops: its symbols in index order take the next codes. The codes, and the code after them. -/
def assignLength (l : Nat) : List (Nat × Nat) → Nat → List CodeEntry × Nat
  | [], code => ([], code)
  | (sym, len) :: rest, code =>
    if len = l then
      let (es, next) := assignLength l rest (code + 1)
      ({ sym := sym, len := l, code := code } :: es, next)
    else assignLength l rest code

/-- R121 from length `l` on, for `n` more lengths. -/
def assignFrom (lens : List (Nat × Nat)) : Nat → Nat → Nat → List CodeEntry
  | 0, _, _ => []
  | n + 1, l, code =>
    let (es, next) := assignLength l lens code
    es ++ assignFrom lens n (l + 1) (next * 2)

/-- The canonical code of R121: lengths 1 to 16, codes from 0. -/
def canonicalCode (lens : List (Nat × Nat)) : List CodeEntry := assignFrom lens 16 1 0

/-- The Kraft sum of R122, scaled by 2^16. -/
def kraftSum : List (Nat × Nat) → Nat
  | [] => 0
  | (_, len) :: rest => 2 ^ (16 - len) + kraftSum rest

/-- `Build` (R122). -/
def buildTable (lens : List (Nat × Nat)) : Except TableCause DecodeTable :=
  if lens = [] then .ok .empty
  else if 2 ^ 16 < kraftSum lens then .error .oversubscribed
  else if kraftSum lens < 2 ^ 16 then .error .incomplete
  else .ok (.codes (canonicalCode lens))

/-- `Build` as an operation: a bad set of lengths is MalformedHuffmanTable (R122). On an error the target table is not
written (R123; log 15). -/
def build {w : Nat} (m : Cells w) (n : Nat) : M DecodeTable :=
  match buildTable (codeLens m n) with
  | .ok t => pure t
  | .error c => raise (.malformedHuffmanTable c)

/-! ### DecodeSym -/

/-- What reading a code bit by bit comes to. -/
inductive WalkResult where
  /-- a code of `len` bits of this symbol -/
  | symbol (sym len : Nat)
  /-- bit `b` is needed and lies in a phantom byte -/
  | phantom (b : Nat)
  /-- no code -/
  | noCode
deriving DecidableEq, Repr

/-- The symbol whose `len`-bit code is `code`. -/
def findCode (entries : List CodeEntry) (len code : Nat) : Option Nat :=
  match entries.find? (fun e => e.len = len ∧ e.code = code) with
  | some e => some e.sym
  | none => none

/-- Reading a code from bit `b + len` on, `acc` being the `len` bits read so far; at most `fuel` more bits. -/
def walkCode (entries : List CodeEntry) (chunk : List Byte) (segBase b : Nat) : Nat → Nat → Nat → WalkResult
  | 0, _, _ => .noCode
  | fuel + 1, len, acc =>
    if chunk.length ≤ byteOf segBase (b + len) then .phantom (b + len)
    else
      let acc' := 2 * acc + (segBit chunk noDraw segBase (b + len)).toNat
      match findCode entries (len + 1) acc' with
      | some sym => .symbol sym (len + 1)
      | none => walkCode entries chunk segBase b fuel (len + 1) acc'

/-- `DecodeSym(T)` (R126, R127), reading the code bit by bit (spec/93_implementation_defined.md I15): the symbol depends
only on the bits it consumes (R128), so no phantom draw is needed. Log 11; `decodeSymPeek` is R126's own form. -/
def decodeSym : DecodeTable → M Nat
  | .empty => raise (.malformedHuffmanTable .emptyTree)
  | .codes entries => do
    fetchBits 16
    let s ← get
    match walkCode entries s.chunk s.cur.segBase.toNat s.cur.c.toNat 16 0 0 with
    | .symbol sym len =>
      set { s with cur := { s.cur with c := narrow (s.cur.c.toNat + len) } }
      pure sym
    | .phantom b => raiseAt .truncatedInput (8 * s.cur.segBase.toNat + b)
    | .noCode => throw (.fault .noSuchCode)

/-- `DecodeSym(T)` word for word as R126 writes it: peek 16 bits (phantom bytes reading as `draw` says), find the one
code that begins them, consume it. Not part of the machine: `decodeSym` is claimed equal to it. -/
def decodeSymPeek (draw : Nat → Byte) : DecodeTable → M Nat
  | .empty => raise (.malformedHuffmanTable .emptyTree)
  | .codes entries => do
    let p ← peekBits draw 16
    match entries.find? (fun e => p / 2 ^ (16 - e.len) = e.code) with
    | some e =>
      consume e.len
      pure e.sym
    | none => throw (.fault .noSuchCode)

end Sys2Proof.Machine
end

