-- ==== Sys2Proof/Machine/Headers.lean ====
section
/-! DEFINITION. Stream header, block headers and fixed-width length fields (spec/43_block_headers.md R170 to R182, R189,
R190). -/

namespace Sys2Proof.Machine

/-! ### Stream header -/

/-- HDR.NOE8 (R170). -/
def execHdrNoE8 (s : State) : Host.Outcome State Fault Refusal :=
  complete (do
    atPhase .streamHdr
    modify fun s => (s.setHeader 0).goto .mainLoop) s

/-- HDR.E8 (R170). -/
def execHdrE8 (s : State) : Host.Outcome State Fault Refusal :=
  complete (do
    atPhase .streamHdr
    let hi ← readBits 16
    let lo ← readBits 16
    modify fun s => (s.setHeader (fileSize hi lo)).goto .mainLoop) s

/-! ### Block headers -/

/-- The three elements a block header writes (R172). -/
def State.setBlock (s : State) (t : BitVec 3) (len : BitVec 24) : State :=
  { s with dec := { s.dec with blockType := t, blockLength := len, blockRemaining := len } }

/-- The length field of a block header of type `t`, and the elements it writes (R172). -/
def blockHeader (t : BitVec 3) : M Unit := do
  atPhase .blockHdr
  let hi ← readBits 16
  let lo ← readBits 8
  modify fun s => s.setBlock t (blockLen hi lo)

/-- BLK.VERBATIM (R172, R173). -/
def execBlkVerbatim (s : State) : Host.Outcome State Fault Refusal :=
  complete (do
    blockHeader 1
    goto (.preLens .main1)) s

/-- BLK.ALIGNED (R172, R174). -/
def execBlkAligned (s : State) : Host.Outcome State Fault Refusal :=
  complete (do
    blockHeader 2
    goto .alnLens) s

/-- BLK.UNCOMPRESSED (R172, R179): `e8_started`, the alignment, then UNC.HDR. The alignment is done here (DEDUCED, log 16,
safe). -/
def execBlkUncompressed (s : State) : Host.Outcome State Fault Refusal :=
  complete (do
    blockHeader 3
    modify State.startE8
    alignToRaw
    goto .uncHdr) s

/-- BLK.INVALID0 (R172, R181). -/
def execBlkInvalid0 (s : State) : Host.Outcome State Fault Refusal :=
  complete (do
    blockHeader 0
    raise .invalidBlockType) s

/-- BLK.INVALID4_7 (R172, R181). -/
def execBlkInvalid4to7 (t : BitVec 3) (s : State) : Host.Outcome State Fault Refusal :=
  complete (do
    blockHeader t
    raise .invalidBlockType) s

/-! ### Fixed-width length fields -/

/-- `aligned_len[i] <- ReadBits(3)` for `n` entries from `i` on (R189). -/
def readAlignedLens (i : Nat) : Nat → M Unit
  | 0 => pure ()
  | n + 1 => do
    let v ← readBits 3
    modify fun s => { s with dec := { s.dec with alignedLen := writeCell (some 0) s.dec.alignedLen i v } }
    readAlignedLens (i + 1) n

/-- `pre_len[i] <- ReadBits(4)` for `n` entries from `i` on (R190). -/
def readPreLens (i : Nat) : Nat → M Unit
  | 0 => pure ()
  | n + 1 => do
    let v ← readBits 4
    modify fun s => { s with dec := { s.dec with preLen := writeCell (some 0) s.dec.preLen i v } }
    readPreLens (i + 1) n

/-- ALN.LENS (R189); the tree sequence follows (R174). -/
def execAlnLens (s : State) : Host.Outcome State Fault Refusal :=
  complete (do
    atPhase .alnLens
    readAlignedLens 0 8
    let s ← get
    let t ← build s.dec.alignedLen 8
    set ({ s with dec := { s.dec with alignedTable := t } }.goto (.preLens .main1))) s

/-- The record whose pre-tree lengths are next. -/
def atPreLens : M Record := do
  let s ← get
  match s.phase with
  | .preLens r => pure r
  | _ => outsideGrammar

/-- PRE.LENS (R190); the record starts at the head of its range (R177). -/
def execPreLens (s : State) : Host.Outcome State Fault Refusal :=
  complete (do
    let r ← atPreLens
    readPreLens 0 20
    let s ← get
    let t ← build s.dec.preLen 20
    set ({ s with dec := { s.dec with preTable := t } }.goto (.record r r.first))) s

end Sys2Proof.Machine
end

