-- ==== Sys2Proof/Machine/PreTree.lean ====
section
/-! DEFINITION. The pre-tree elements of a tree-length record (spec/43_block_headers.md R183 to R188). -/

namespace Sys2Proof.Machine

/-- PRE.DELTA (R183). -/
def execPreDelta (z : BitVec 5) (s : State) : Host.Outcome State Fault Refusal :=
  complete (do
    let (r, x) ← inRecord
    modify fun s => s.writeLens r x 1 (deltaLen (lenAt (s.recordLens r) x) z.toNat)) s

/-- PRE.ZRUN4 (R184, R186). -/
def execPreZrun4 (s : State) : Host.Outcome State Fault Refusal :=
  complete (do
    let (r, x) ← inRecord
    let y ← readBits 4
    modify fun s => s.writeLens r x (zrun4Count y) 0) s

/-- PRE.ZRUN20 (R185, R186). -/
def execPreZrun20 (s : State) : Host.Outcome State Fault Refusal :=
  complete (do
    let (r, x) ← inRecord
    let y ← readBits 5
    modify fun s => s.writeLens r x (zrun20Count y) 0) s

/-- PRE.SAME (R187, R188, R186). -/
def execPreSame (s : State) : Host.Outcome State Fault Refusal :=
  complete (do
    let (r, x) ← inRecord
    let y ← readBits 1
    let s ← get
    let z2 ← decodeSym s.dec.preTable
    if 16 < z2 then raise (.malformedHuffmanTable .badSameSymbol)
    modify fun s => s.writeLens r x (sameCount y) (deltaLen (lenAt (s.recordLens r) x) z2)) s

end Sys2Proof.Machine
end

