-- ==== Sys2Proof/Machine/Symbols.lean ====
section
/-! DEFINITION. Main-tree elements: literals, matches, length footer, aligned symbol (spec/44_symbols.md R200 to
R216). -/

namespace Sys2Proof.Machine

/-- The block types whose elements are main-tree elements (R200). -/
def codedBlock (t : BitVec 3) : Bool := t = 1 || t = 2

/-- `run <- run - n` (spec/42_commands.md R144), the next element of the run following. -/
def State.spendRun (s : State) (n : Nat) : State := { s with run := s.run - n }.goto .runLoop

/-- MAIN.LIT (R201). -/
def execMainLit (b : Byte) (s : State) : Host.Outcome State Fault Refusal :=
  complete (do
    inRun codedBlock
    winWrite b
    modify fun s => s.spendRun 1) s

/-! ### The end of a match: checks and copy (R213 to R216) -/

/-- The length checks, then the offset checks, in the order of R213 and R214. -/
def checkMatch (length : Nat) (offset : Nat) : M Unit := do
  let s ← get
  if windowSize s.dec.wb < s.dec.windowPos.toNat + length then raise (.windowOverrun .matchCrosses)
  if s.run < length then raise .lengthMismatch
  if offset = 0 then raise (.windowOverrun .offsetZero)
  if windowSize s.dec.wb < offset then raise (.windowOverrun .offsetBeyond)
  if s.params.windowInit = .unspecified ∧ s.dec.written < offset then raise .unwrittenWindowRead

/-- Checks, copy, and the bytes off the run (R213 to R216). The repeated offsets are updated already (R216). -/
def finishMatch (length : Nat) (offset : Word) : M Unit := do
  checkMatch length offset.toNat
  copyBytes offset.toNat length
  modify fun s => s.spendRun length

/-! ### The offset step of each slot (R205 to R210) -/

/-- Slot 0 (R205). -/
def matchR0 (length : Nat) : M Unit := do
  let s ← get
  finishMatch length s.dec.r0

/-- Slot 1 (R206). -/
def matchR1 (length : Nat) : M Unit := do
  let s ← get
  set s.swapR1
  finishMatch length s.dec.r1

/-- Slot 2 (R207). -/
def matchR2 (length : Nat) : M Unit := do
  let s ← get
  set s.swapR2
  finishMatch length s.dec.r2

/-- A match whose offset is a new one: inserted, then checked and copied (R208 to R210, R216). -/
def matchNew (length : Nat) (offset : Nat) : M Unit := do
  modify fun s => s.pushOffset (narrow offset)
  finishMatch length (narrow offset)

/-- Slots 4 to 49 in a VERBATIM block (R209). -/
def matchVerb (slot : Nat) (length : Nat) : M Unit := do
  let v ← readBits (extraBits slot)
  matchNew length (verbOffset slot v.toNat)

/-- Slots 4 to 49 in an ALIGNED block (R210): the verbatim bits; the aligned symbol, where there is one, is the next
element. -/
def matchAlgn (slot : Nat) (length : Nat) : M Unit := do
  if 3 < extraBits slot then
    let v ← readBits (extraBits slot - 3)
    goto (.alignedSym length (alignedBase slot v.toNat))
  else if extraBits slot = 3 then goto (.alignedSym length (alignedBase slot 0))
  else
    let v ← readBits (extraBits slot)
    matchNew length (verbOffset slot v.toNat)

/-- The offset step of any slot, taken after a length footer (R203, R216). -/
def offsetStep (slot : BitVec 6) (length : Nat) : M Unit := do
  let s ← get
  if slot = 0 then matchR0 length
  else if slot = 1 then matchR1 length
  else if slot = 2 then matchR2 length
  else if slot = 3 then matchNew length 1
  else if s.dec.blockType = 1 then matchVerb slot.toNat length
  else if s.dec.blockType = 2 then matchAlgn slot.toNat length
  else outsideGrammar

/-- After the main symbol: the length footer is next if lh = 7, else the offset step follows (R203, R216). -/
def afterHeader (slot : BitVec 6) (lh : BitVec 3) (step : Nat → M Unit) : M Unit :=
  if lh = 7 then goto (.footer slot) else step (matchLength lh 0)

/-! ### The elements -/

/-- MAIN.MATCH.R0 (R205). -/
def execMainMatchR0 (lh : BitVec 3) (s : State) : Host.Outcome State Fault Refusal :=
  complete (do
    inRun codedBlock
    afterHeader 0 lh matchR0) s

/-- MAIN.MATCH.R1 (R206). -/
def execMainMatchR1 (lh : BitVec 3) (s : State) : Host.Outcome State Fault Refusal :=
  complete (do
    inRun codedBlock
    afterHeader 1 lh matchR1) s

/-- MAIN.MATCH.R2 (R207). -/
def execMainMatchR2 (lh : BitVec 3) (s : State) : Host.Outcome State Fault Refusal :=
  complete (do
    inRun codedBlock
    afterHeader 2 lh matchR2) s

/-- MAIN.MATCH.ONE (R208). -/
def execMainMatchOne (lh : BitVec 3) (s : State) : Host.Outcome State Fault Refusal :=
  complete (do
    inRun codedBlock
    afterHeader 3 lh (fun length => matchNew length 1)) s

/-- MAIN.MATCH.VERB (R209), in a VERBATIM block. -/
def execMainMatchVerb (slot : BitVec 6) (lh : BitVec 3) (s : State) : Host.Outcome State Fault Refusal :=
  complete (do
    inRun (fun t => t = 1)
    afterHeader slot lh (matchVerb slot.toNat)) s

/-- MAIN.MATCH.ALGN (R210), in an ALIGNED block. -/
def execMainMatchAlgn (slot : BitVec 6) (lh : BitVec 3) (s : State) : Host.Outcome State Fault Refusal :=
  complete (do
    inRun (fun t => t = 2)
    afterHeader slot lh (matchAlgn slot.toNat)) s

/-- LEN.FOOTER (R203, R204): the match length, then the offset step of the pending slot. -/
def execLenFooter (f : BitVec 8) (s : State) : Host.Outcome State Fault Refusal :=
  complete (do
    let s ← get
    match s.phase with
    | .footer slot => offsetStep slot (matchLength 7 f.toNat)
    | _ => outsideGrammar) s

/-- ALN.SYM (R211, R210): the low part of the offset; the match ends. -/
def execAlnSym (a : BitVec 3) (s : State) : Host.Outcome State Fault Refusal :=
  complete (do
    let s ← get
    match s.phase with
    | .alignedSym length base => matchNew length (base + a.toNat)
    | _ => outsideGrammar) s

end Sys2Proof.Machine
end

