-- ==== Sys2Proof/Machine/Raw.lean ====
section
/-! DEFINITION. Raw elements: pad byte, repeated offsets and bytes of UNCOMPRESSED blocks (spec/43_block_headers.md
R171, R180; spec/44_symbols.md R220). -/

namespace Sys2Proof.Machine

/-- UNC.PAD (spec/43_block_headers.md R171): one byte, ignored, and a new bit segment. -/
def execUncPad (s : State) : Host.Outcome State Fault Refusal :=
  complete (do
    atPhase .uncPad
    let _ ← readRawByte
    initBits
    goto .blockHdr) s

/-- UNC.HDR (spec/43_block_headers.md R180): R0, R1, R2 in order, each written as it is read. -/
def execUncHdr (s : State) : Host.Outcome State Fault Refusal :=
  complete (do
    atPhase .uncHdr
    let a ← readRaw32
    modify fun s => { s with dec := { s.dec with r0 := a } }
    let b ← readRaw32
    modify fun s => { s with dec := { s.dec with r1 := b } }
    let c ← readRaw32
    modify fun s => { s with dec := { s.dec with r2 := c } }
    goto .mainLoop) s

/-- UNC.BYTE (spec/44_symbols.md R220). -/
def execUncByte (s : State) : Host.Outcome State Fault Refusal :=
  complete (do
    inRun (fun t => !codedBlock t)
    let b ← readRawByte
    winWrite b
    modify fun s => s.spendRun 1) s

end Sys2Proof.Machine
end

