-- ==== Sys2Proof/Machine/Dispatch.lean ====
section
/-! DEFINITION. One arm per instruction. -/

namespace Sys2Proof.Machine

def exec (i : Instr) (s : State) : Host.Outcome State Fault Refusal :=
  match i with
  | .init windowBits => Sys2Proof.Machine.execInit windowBits s
  | .decompress outLen chunk => Sys2Proof.Machine.execDecompress outLen chunk s
  | .seqRun decompressedLen payload => Sys2Proof.Machine.execSeqRun decompressedLen payload s
  | .readState id => Sys2Proof.Machine.execReadState id s
  | .cmdReserved word => Sys2Proof.Machine.execCmdReserved word s
  | .hdrNoE8 => Sys2Proof.Machine.execHdrNoE8 s
  | .hdrE8 => Sys2Proof.Machine.execHdrE8 s
  | .blkVerbatim => Sys2Proof.Machine.execBlkVerbatim s
  | .blkAligned => Sys2Proof.Machine.execBlkAligned s
  | .blkUncompressed => Sys2Proof.Machine.execBlkUncompressed s
  | .blkInvalid0 => Sys2Proof.Machine.execBlkInvalid0 s
  | .blkInvalid4to7 t => Sys2Proof.Machine.execBlkInvalid4to7 t s
  | .alnLens => Sys2Proof.Machine.execAlnLens s
  | .preLens => Sys2Proof.Machine.execPreLens s
  | .preDelta z => Sys2Proof.Machine.execPreDelta z s
  | .preZrun4 => Sys2Proof.Machine.execPreZrun4 s
  | .preZrun20 => Sys2Proof.Machine.execPreZrun20 s
  | .preSame => Sys2Proof.Machine.execPreSame s
  | .mainLit b => Sys2Proof.Machine.execMainLit b s
  | .mainMatchR0 lh => Sys2Proof.Machine.execMainMatchR0 lh s
  | .mainMatchR1 lh => Sys2Proof.Machine.execMainMatchR1 lh s
  | .mainMatchR2 lh => Sys2Proof.Machine.execMainMatchR2 lh s
  | .mainMatchOne lh => Sys2Proof.Machine.execMainMatchOne lh s
  | .mainMatchVerb slot lh => Sys2Proof.Machine.execMainMatchVerb slot lh s
  | .mainMatchAlgn slot lh => Sys2Proof.Machine.execMainMatchAlgn slot lh s
  | .lenFooter f => Sys2Proof.Machine.execLenFooter f s
  | .alnSym a => Sys2Proof.Machine.execAlnSym a s
  | .uncPad => Sys2Proof.Machine.execUncPad s
  | .uncHdr => Sys2Proof.Machine.execUncHdr s
  | .uncByte => Sys2Proof.Machine.execUncByte s
  | .frmStd h0 => Sys2Proof.Machine.execFrmStd h0 s
  | .frmExplicit => Sys2Proof.Machine.execFrmExplicit s

end Sys2Proof.Machine
end

