-- ==== Sys2Proof/Decode.lean ====
section
/-! DEFINITION. Decoding opcode words into instructions, total and rejecting by name, and the encoder
(spec/30_encoding.md R70 to R95). -/

namespace Sys2Proof

/-- Why an opcode word is no instruction. -/
inductive Reject where
  /-- a pre-tree symbol above 19 (R82) -/
  | preSymbol
  /-- a main symbol above 655 (R83) -/
  | mainSymbol
  /-- a main symbol in a block that is neither VERBATIM nor ALIGNED (R200) -/
  | mainBlockType
  /-- a length-tree symbol above 249 (R84) -/
  | lengthSymbol
deriving DecidableEq, Repr

/-! ### Field masks of the command word (R70) -/

/-- `op`, bits [3:0]. -/
def cmdOp (w : Word) : BitVec 4 := w.extractLsb' 0 4

/-- Reserved, bits [7:4]. -/
def cmdReservedLow (w : Word) : BitVec 4 := w.extractLsb' 4 4

/-- `arg`, bits [15:8]. -/
def cmdArg (w : Word) : BitVec 8 := w.extractLsb' 8 8

/-- Reserved, bits [31:16]. -/
def cmdReservedHigh (w : Word) : BitVec 16 := w.extractLsb' 16 16

/-- What R70 and R71 make of a command word; `reserved` is every word that R156 refuses. -/
inductive CmdKind where
  | init
  | decompress
  | seqRun
  | readState
  | reserved
deriving DecidableEq, Repr

/-- The command a command word stands for (R70, R71, R156). -/
def cmdKind (w : Word) : CmdKind :=
  if cmdReservedLow w ≠ 0 ∨ cmdReservedHigh w ≠ 0 then .reserved
  else if cmdOp w = 1 then .init
  else if cmdOp w = 2 then (if cmdArg w = 0 then .decompress else .reserved)
  else if cmdOp w = 3 then (if cmdArg w = 0 then .seqRun else .reserved)
  else if cmdOp w = 4 then .readState
  else .reserved

/-- Operand word `k` of a command that takes one (R71); a free value where the host has supplied none (log 13). -/
def operandWord (c : HostCommand) (draw k : Nat) : Word := (c.operands[k]?).getD (Config.unsuppliedOperand draw k)

/-- The byte sequence of a command that takes `n` bytes (R71): the host's, a free value for each byte the host has not
supplied (log 13); what the host supplies past them is not read. -/
def commandBytes (c : HostCommand) (draw n : Nat) : List Byte :=
  c.bytes.take n ++ (List.range' c.bytes.length (n - c.bytes.length)).map (Config.unsuppliedByte draw)

/-- The byte sequence of DECOMPRESS or SEQ_RUN: as many bytes as the first operand word says (R71). -/
def countedBytes (c : HostCommand) (draw : Nat) : List Byte := commandBytes c draw (operandWord c draw 0).toNat

/-- A host command (R70, R71), total: INIT, READ_STATE and a refused word take no operand word and no byte (R71, R156). -/
def decodeCommand (c : HostCommand) (draw : Nat) : Instr :=
  match cmdKind c.word with
  | .init => .init (cmdArg c.word)
  | .decompress => .decompress (operandWord c draw 1) (countedBytes c draw)
  | .seqRun => .seqRun (operandWord c draw 1) (countedBytes c draw)
  | .readState => .readState (cmdArg c.word)
  | .reserved => .cmdReserved c.word

/-- The host has supplied fewer operand words or bytes than its command takes (R71; log 13). -/
def fallsShort (c : HostCommand) : Bool :=
  (decide (cmdKind c.word = .decompress) || decide (cmdKind c.word = .seqRun)) &&
    (match c.operands with
    | len :: _ :: _ => decide (c.bytes.length < len.toNat)
    | _ => true)

/-- The stream header's flag (R75). -/
def decodeHdr (f : BitVec 1) : Instr := if f = 0 then .hdrNoE8 else .hdrE8

/-- The block type field (R74). -/
def decodeBlk (t : BitVec 3) : Instr :=
  if t = 0 then .blkInvalid0
  else if t = 1 then .blkVerbatim
  else if t = 2 then .blkAligned
  else if t = 3 then .blkUncompressed
  else .blkInvalid4to7 t

/-- A pre-tree symbol (R82). -/
def decodePre (z : BitVec 5) : Except Reject Instr :=
  if z.toNat ≤ 16 then .ok (.preDelta z)
  else if z = 17 then .ok .preZrun4
  else if z = 18 then .ok .preZrun20
  else if z = 19 then .ok .preSame
  else .error .preSymbol

/-- `m = s - 256` of a match symbol (R83, R202). -/
def matchField (s : BitVec 10) : BitVec 9 := (s - 256).setWidth 9

/-- `lh = m[2:0]` (R83, R202). -/
def matchLh (s : BitVec 10) : BitVec 3 := (matchField s).extractLsb' 0 3

/-- `slot = m[8:3]` (R83, R202). -/
def matchSlot (s : BitVec 10) : BitVec 6 := (matchField s).extractLsb' 3 6

/-- A match symbol by its position slot (R85); slots of 4 and above by the block type. -/
def decodeMatch (blockType : BitVec 3) (slot : BitVec 6) (lh : BitVec 3) : Instr :=
  if slot = 0 then .mainMatchR0 lh
  else if slot = 1 then .mainMatchR1 lh
  else if slot = 2 then .mainMatchR2 lh
  else if slot = 3 then .mainMatchOne lh
  else if blockType = 1 then .mainMatchVerb slot lh
  else .mainMatchAlgn slot lh

/-- A main symbol (R83, R85) in a VERBATIM (1) or ALIGNED (2) block. -/
def decodeMain (blockType : BitVec 3) (s : BitVec 10) : Except Reject Instr :=
  if blockType ≠ 1 ∧ blockType ≠ 2 then .error .mainBlockType
  else if s.toNat < 256 then .ok (.mainLit (s.setWidth 8))
  else if s.toNat ≤ 655 then .ok (decodeMatch blockType (matchSlot s) (matchLh s))
  else .error .mainSymbol

/-- A length-tree symbol (R84). -/
def decodeLen (f : BitVec 8) : Except Reject Instr :=
  if f.toNat ≤ 249 then .ok (.lenFooter f) else .error .lengthSymbol

/-- The first byte of a frame header (R91). -/
def decodeFrm (h0 : Byte) : Instr := if h0 = 0xFF then .frmExplicit else .frmStd h0

/-- Decoding, total on every opcode word. -/
def decode : OpWord → Except Reject Instr
  | .cmd c draw => .ok (decodeCommand c draw)
  | .hdr f => .ok (decodeHdr f)
  | .blk t => .ok (decodeBlk t)
  | .alnLens => .ok .alnLens
  | .preLens => .ok .preLens
  | .pre z => decodePre z
  | .main bt s => decodeMain bt s
  | .len f => decodeLen f
  | .aln a => .ok (.alnSym a)
  | .uncPad => .ok .uncPad
  | .uncHdr => .ok .uncHdr
  | .uncByte => .ok .uncByte
  | .frm h0 => .ok (decodeFrm h0)

/-! ### The encoder -/

/-- A command word from its `op` and `arg`, reserved bits 0 (R70). -/
def cmdWord (op : BitVec 4) (arg : BitVec 8) : Word := 0#16 ++ arg ++ 0#4 ++ op

/-- A main symbol from position slot and length header: 256 + 8·slot + lh (R83). -/
def matchSymbol (slot : BitVec 6) (lh : BitVec 3) : BitVec 10 := 256#10 + (slot ++ lh).setWidth 10

/-- The opcode word of an instruction (R70 to R91). -/
def encode : Instr → OpWord
  | .init wb => .cmd { word := cmdWord 1 wb, operands := [], bytes := [] } 0
  | .decompress outLen chunk =>
    .cmd { word := cmdWord 2 0, operands := [BitVec.ofNat 32 chunk.length, outLen], bytes := chunk } 0
  | .seqRun len payload =>
    .cmd { word := cmdWord 3 0, operands := [BitVec.ofNat 32 payload.length, len], bytes := payload } 0
  | .readState id => .cmd { word := cmdWord 4 id, operands := [], bytes := [] } 0
  | .cmdReserved w => .cmd { word := w, operands := [], bytes := [] } 0
  | .hdrNoE8 => .hdr 0
  | .hdrE8 => .hdr 1
  | .blkVerbatim => .blk 1
  | .blkAligned => .blk 2
  | .blkUncompressed => .blk 3
  | .blkInvalid0 => .blk 0
  | .blkInvalid4to7 t => .blk t
  | .alnLens => .alnLens
  | .preLens => .preLens
  | .preDelta z => .pre z
  | .preZrun4 => .pre 17
  | .preZrun20 => .pre 18
  | .preSame => .pre 19
  | .mainLit b => .main 1 (b.setWidth 10)
  | .mainMatchR0 lh => .main 1 (matchSymbol 0 lh)
  | .mainMatchR1 lh => .main 1 (matchSymbol 1 lh)
  | .mainMatchR2 lh => .main 1 (matchSymbol 2 lh)
  | .mainMatchOne lh => .main 1 (matchSymbol 3 lh)
  | .mainMatchVerb slot lh => .main 1 (matchSymbol slot lh)
  | .mainMatchAlgn slot lh => .main 2 (matchSymbol slot lh)
  | .lenFooter f => .len f
  | .alnSym a => .aln a
  | .uncPad => .uncPad
  | .uncHdr => .uncHdr
  | .uncByte => .uncByte
  | .frmStd h0 => .frm h0
  | .frmExplicit => .frm 0xFF

/-! ### One word of the opcode table -/

/-- The opcode word a table row's bits stand for. The table's formats have no word size of their own, so the width in
whole bytes picks the language, and among the 8-bit ones the value does: HDR is 1 bit wide, BLK 3 bits, PRE 5 bits, the
rest is the first byte of a frame header (log 19). DECOMPRESS and SEQ_RUN get operand words of zeros. -/
def tableOpWord (nbits w : Nat) : OpWord :=
  if 24 < nbits then
    .cmd { word := BitVec.ofNat 32 w, operands := if w = 2 ∨ w = 3 then [0, 0] else [], bytes := [] } 0
  else if 16 < nbits then .pre (BitVec.ofNat 5 w)
  else if 8 < nbits then .main 1 (BitVec.ofNat 10 w)
  else if w < 2 then .hdr (BitVec.ofNat 1 w)
  else if w < 8 then .blk (BitVec.ofNat 3 w)
  else if w < 20 then .pre (BitVec.ofNat 5 w)
  else .frm (BitVec.ofNat 8 w)

/-- What the decoder reads from one word of the opcode table (log 19). -/
def decodeTableWord (nbits w : Nat) : Option Instr :=
  match decode (tableOpWord nbits w) with
  | .ok i => some i
  | .error _ => none

end Sys2Proof
end

