-- ==== Sys2Proof/Machine/Sequencer.lean ====
section
/-! DEFINITION. The rules that run between elements: MainLoop and Run (spec/42_commands.md R143, R144), the end of a
tree-length record (spec/43_block_headers.md R175 to R178), FrameOutput, the E8 pass and delivery (spec/42_commands.md R146
to R152), the loop of SEQ_RUN (spec/45_frame_sequencer.md R232, R237). -/

namespace Sys2Proof.Machine

/-! ### MainLoop and Run -/

/-- The start of a run on plain data (R144): the run's size off `togo` and `block_remaining`, `window_pos` modulo WS. -/
def State.takeRun (s : State) : State :=
  let run := min s.dec.blockRemaining.toNat s.togo.toNat
  { s with
    run := run
    togo := s.togo - BitVec.ofNat 32 run
    dec :=
      { s.dec with
        blockRemaining := s.dec.blockRemaining - BitVec.ofNat 24 run
        windowPos := BitVec.ofNat 22 (s.dec.windowPos.toNat % windowSize s.dec.wb) } }

/-- Run (R144), up to its first element. -/
def startRun : M Unit := do
  modify State.takeRun
  let s ← get
  if windowSize s.dec.wb < s.dec.windowPos.toNat + s.run then raise (.windowOverrun .runCrosses)
  goto .runLoop

/-- The start of BlockHeader (spec/43_block_headers.md R171, R172): after an UNCOMPRESSED block the pad byte if one is
due, else a new bit segment; then the header (DEDUCED, log 22, safe). -/
def startBlockHeader : M Unit := do
  let s ← get
  if s.padDue then goto .uncPad
  else
    if s.dec.blockType = 3 then initBits
    goto .blockHdr

/-- The loop tests of MainLoop (R143). -/
def mainLoop : M Unit := do
  let s ← get
  if s.togo = 0 then goto .frameOutput
  else if s.dec.blockRemaining = 0 then startBlockHeader
  else startRun

/-! ### The end of a tree-length record -/

/-- The main tree and `e8_started` (spec/43_block_headers.md R175, R176, R178). -/
def buildMain : M Unit := do
  let s ← get
  let t ← build s.dec.mainLen 656
  set { s with dec := { s.dec with mainTable := t, e8Started := e8StartedBy s.dec.mainLen s.dec.e8Started } }

/-- The length tree (spec/43_block_headers.md R175, R178). -/
def buildLength : M Unit := do
  let s ← get
  let t ← build s.dec.lengthLen 250
  set { s with dec := { s.dec with lengthTable := t } }

/-- What follows each record (spec/43_block_headers.md R175). -/
def endRecord : Record → M Unit
  | .main1 => goto (.preLens .main2)
  | .main2 => do
    buildMain
    goto (.preLens .length)
  | .length => do
    buildLength
    goto .mainLoop

/-! ### The end of a frame -/

/-- FrameOutput (R146). -/
def frameOutput : M Unit := do
  let s ← get
  let stop := if s.dec.windowPos ≠ 0 then s.dec.windowPos.toNat else windowSize s.dec.wb
  if stop < s.outLen.toNat then raise (.windowOverrun .notContiguous)
  let bytes ← readBytes (stop - s.outLen.toNat) s.outLen.toNat
  modify fun s => { s with out := bytes }.goto .e8Pass

/-- The operand after an E8 byte at index i (R150). -/
def e8Operand (out : List Byte) (i : Nat) : Int :=
  s32Bytes (out.getD (i + 1) 0) (out.getD (i + 2) 0) (out.getD (i + 3) 0) (out.getD (i + 4) 0)

/-- `out[i+1 .. i+4] <- the 4 bytes of u32(rel)` (R150). -/
def e8Put (out : List Byte) (i : Nat) (rel : Int) : List Byte :=
  out.take (i + 1) ++ u32Bytes rel ++ out.drop (i + 5)

/-- The translated operand, where the operand is in range (R150). -/
def e8Rel (a cur fs : Int) : Option Int :=
  if -cur ≤ a ∧ a < fs then some (if 0 ≤ a then a - cur else a + fs) else none

/-- The loop of E8Translate (R150) from index i at position cur. `fuel` bounds the iterations; `out.length` of them
always suffice, since each raises i. -/
def e8Loop (fs : Int) : Nat → Nat → Int → List Byte → List Byte
  | 0, _, _, out => out
  | fuel + 1, i, cur, out =>
    if i + 10 < out.length then
      if out.getD i 0 ≠ 0xE8 then e8Loop fs fuel (i + 1) (cur + 1) out
      else
        match e8Rel (e8Operand out i) cur fs with
        | some rel => e8Loop fs fuel (i + 5) (cur + 5) (e8Put out i rel)
        | none => e8Loop fs fuel (i + 5) (cur + 5) out
    else out

/-- E8Translate on a frame's output (R150). -/
def e8Translate (curPos fileSize : Word) (out : List Byte) : List Byte :=
  e8Loop fileSize.toInt out.length 0 curPos.toNat out

/-- `e8_curpos <- (e8_curpos + out_len) mod 2^32` (R149 to R151). -/
def State.advanceE8 (s : State) : State := { s with dec := { s.dec with e8CurPos := s.dec.e8CurPos + s.outLen } }

/-- The E8 pass (R149, R150). -/
def e8Pass : M Unit := do
  let s ← get
  if s.e8Condition then
    if s.e8CountOnly then set s.advanceE8
    else if s.params.e8Mode = .reject then raise .e8Unsupported
    else set ({ s with out := e8Translate s.dec.e8CurPos s.dec.e8FileSize s.out } : State).advanceE8
  goto .deliver

/-- `frames_read <- min(frames_read + 1, 32768)` (R152). -/
def State.countFrame (s : State) : State :=
  { s with dec := { s.dec with framesRead := BitVec.ofNat 16 (min (s.dec.framesRead.toNat + 1) 32768) } }

/-- The end of DECOMPRESS (R152, R148): the output goes to the host, or, inside SEQ_RUN, to OUT, and `pos` moves to the
next frame header (spec/45_frame_sequencer.md R232, R238). -/
def deliver : M Unit := do
  modify State.countFrame
  let s ← get
  match s.seq with
  | none => reply 0 (.output s.out)
  | some q =>
    set ({ s with seq := some { q with out := q.out ++ s.out, pos := q.pos + s.chunk.length } }.goto .seqLoop)

/-! ### The loop of SEQ_RUN -/

/-- The loop test (spec/45_frame_sequencer.md R232). -/
def seqLoop : M Unit := do
  let s ← get
  match s.seq with
  | none => outsideGrammar
  | some q => if q.pos < q.payload.length then goto .frameHdr else goto .seqFinish

/-- After the loop (spec/45_frame_sequencer.md R232, R237). -/
def seqFinish : M Unit := do
  let s ← get
  match s.seq with
  | none => outsideGrammar
  | some q =>
    if q.out.length ≠ q.decompressedLen.toNat then raiseAt .sizeMismatch (8 * q.pos)
    else
      set { s with seq := none }
      reply 0 (.output q.out)

end Sys2Proof.Machine
end

