-- ==== Sys2Proof/Machine/Fetch.lean ====
section
/-! DEFINITION. What the block does next: the grammar of spec/30_encoding.md R73 as a fetch. In a phase whose next
element is known only from the stream, the fetch reads its opcode word with the primitive the rules name. -/

namespace Sys2Proof.Machine

/-- What a fetch comes to. -/
inductive Fetched where
  /-- an instruction, and the state past its opcode word -/
  | run (i : Instr) (s : State)
  /-- no instruction: a rule of the sequencer, an error in reading the opcode word, or nothing to do -/
  | done (o : Host.Outcome State Fault Refusal)

/-- The refusal of an opcode word that is no instruction. -/
def rejectRefusal : Reject → Refusal
  | .preSymbol => .symbolOutsideAlphabet
  | .mainSymbol => .symbolOutsideAlphabet
  | .mainBlockType => .symbolOutsideAlphabet
  | .lengthSymbol => .symbolOutsideAlphabet

/-- An opcode word and the state past it, decoded. -/
def decoded (w : OpWord) (s : State) : Fetched :=
  match decode w with
  | .ok i => .run i s
  | .error e => .done (.refused (rejectRefusal e))

/-- Reading an opcode word from the stream; an error in reading it is taken. -/
def readOpcode (m : M OpWord) (s : State) : Fetched :=
  match m.run s with
  | .ok w t => decoded w t
  | .error stop t => .done (complete (throw stop) t)

/-- A decoded symbol as an opcode word; no table Build returns gives a symbol that does not fit (log 17). -/
def symbolWord {w : Nat} (mk : BitVec w → OpWord) (sym : Nat) : M OpWord :=
  if sym < 2 ^ w then pure (mk (BitVec.ofNat w sym)) else throw (.refuse .symbolOutsideAlphabet)

/-- A command taken from the host's port. Only a READY block reads what a command brings with it (spec/60_exceptions.md
R256), so only then does a transaction that falls short use up a free value (log 13). -/
def State.takeCommand (s : State) (c : HostCommand) (rest : List HostCommand) : State :=
  { s with
    pending := rest
    draws := if decide (s.stat.status = .ready) && fallsShort c then s.draws + 1 else s.draws }

/-- The next command of the host; with none the block idles (spec/60_exceptions.md R266; log 18). -/
def fetchCommand (s : State) : Fetched :=
  match s.pending with
  | [] => .done (.next s)
  | c :: rest => decoded (.cmd c s.draws) (s.takeCommand c rest)

/-- The next symbol of the record, or the record's end (spec/43_block_headers.md R177). -/
def fetchRecord (r : Record) (x : Nat) (s : State) : Fetched :=
  if x < r.last s.dec.wb then
    readOpcode (do
      let z ← decodeSym s.dec.preTable
      symbolWord .pre z) s
  else .done (complete (endRecord r) s)

/-- The next element of the run, or the run's end (spec/42_commands.md R144, R145). -/
def fetchRun (s : State) : Fetched :=
  if s.run = 0 then .done (.next (s.goto .mainLoop))
  else if s.dec.blockType = 1 ∨ s.dec.blockType = 2 then
    readOpcode (do
      let sym ← decodeSym s.dec.mainTable
      symbolWord (.main s.dec.blockType) sym) s
  else decoded .uncByte s

/-- The first byte of the frame header at `pos` (spec/45_frame_sequencer.md R232 to R234). -/
def fetchFrame (s : State) : Fetched :=
  match s.seq with
  | none => .done (.refused .outsideGrammar)
  | some q =>
    match q.payload[q.pos]? with
    | none => .done (complete (raiseAt .truncatedInput (8 * q.pos)) s)
    | some h0 => decoded (.frm h0) s

/-- What the block does next in a state (spec/30_encoding.md R73, R92). -/
def fetch (s : State) : Fetched :=
  match s.phase with
  | .idle => fetchCommand s
  | .seqLoop => .done (complete seqLoop s)
  | .frameHdr => fetchFrame s
  | .seqFinish => .done (complete seqFinish s)
  | .streamHdr => readOpcode (do
      let f ← readBits 1
      pure (.hdr f)) s
  | .mainLoop => .done (complete mainLoop s)
  | .uncPad => decoded .uncPad s
  | .blockHdr => readOpcode (do
      let t ← readBits 3
      pure (.blk t)) s
  | .alnLens => decoded .alnLens s
  | .preLens _ => decoded .preLens s
  | .record r x => fetchRecord r x s
  | .uncHdr => decoded .uncHdr s
  | .runLoop => fetchRun s
  | .footer _ => readOpcode (do
      let f ← decodeSym s.dec.lengthTable
      symbolWord .len f) s
  | .alignedSym _ _ => readOpcode (do
      let a ← decodeSym s.dec.alignedTable
      symbolWord .aln a) s
  | .frameOutput => .done (complete frameOutput s)
  | .e8Pass => .done (complete e8Pass s)
  | .deliver => .done (complete deliver s)

end Sys2Proof.Machine
end

