-- ==== Sys2Proof/Machine/Step.lean ====
section
/-! DEFINITION. One step: the next instruction, or the next rule of the sequencer. -/

namespace Sys2Proof.Machine

/-- One step (log 2): in a phase where an instruction is next, that instruction from the state past its opcode word;
else one rule of the sequencer. -/
def step (s : State) : Host.Outcome State Fault Refusal :=
  match fetch s with
  | .run i t => exec i t
  | .done o => o

/-- A chunk whose first word holds `v` in its top 16 - `shift` bits, followed by zero bytes (spec/40_bitreader.md R100). -/
def topBits (v shift : Nat) : List Byte :=
  let w := BitVec.ofNat 16 (v * 2 ^ shift)
  w.extractLsb' 0 8 :: w.extractLsb' 8 8 :: List.replicate 30 0

/-- The state with a chunk of its own and the cursor in bit mode at its first bit, at a phase (log 19). -/
def State.atStream (s : State) (chunk : List Byte) (p : Phase) : State :=
  { s with chunk := chunk, cur := { mode := .bit, segBase := 0, c := 0, inPos := 0 }, phase := p }

/-- A complete code in which `sym` is the 1-bit code 0 (log 19). -/
def twoSymbolCode (sym : Nat) : DecodeTable :=
  .codes [{ sym := sym, len := 1, code := 0 }, { sym := if sym = 0 then 1 else 0, len := 1, code := 1 }]

/-- The state in which the next fetch reads this opcode word (log 19): the grammar at the word's phase, its bits at the
cursor, and for a Huffman-coded word a table in which its code is 0. -/
def State.placeWord (s : State) (o : OpWord) : State :=
  match o with
  | .cmd c _ => { s with phase := .idle, pending := c :: s.pending }
  | .hdr f => s.atStream (topBits f.toNat 15) .streamHdr
  | .blk t => s.atStream (topBits t.toNat 13) .blockHdr
  | .alnLens => s.atStream (topBits 0 0) .alnLens
  | .preLens => s.atStream (topBits 0 0) (.preLens .main1)
  | .pre z =>
    { s with dec := { s.dec with preTable := twoSymbolCode z.toNat } }.atStream (topBits 0 0) (.record .main1 0)
  | .main bt m =>
    { s with run := 512, dec := { s.dec with blockType := bt, mainTable := twoSymbolCode m.toNat } }.atStream
      (topBits 0 0) .runLoop
  | .len f =>
    { s with dec := { s.dec with lengthTable := twoSymbolCode f.toNat } }.atStream (topBits 0 0) (.footer 0)
  | .aln a =>
    { s with dec := { s.dec with alignedTable := twoSymbolCode a.toNat } }.atStream (topBits 0 0) (.alignedSym 2 1)
  | .uncPad => s.atStream (topBits 0 0) .uncPad
  | .uncHdr => s.atStream (topBits 0 0) .uncHdr
  | .uncByte => { s with run := 512, dec := { s.dec with blockType := 3 } }.atStream (topBits 0 0) .runLoop
  | .frm h0 =>
    { s with
      phase := .frameHdr
      seq := some { payload := h0 :: List.replicate 31 0, pos := 0, decompressedLen := 0, out := [] } }

/-- The state whose next step fetches and runs the instruction of one word of the opcode table (log 19). -/
def State.withFetchWord (s : State) (nbits w : Nat) : State := s.placeWord (tableOpWord nbits w)

end Sys2Proof.Machine
end

