-- ==== Sys2Proof/Machine/AccReader.lean ====
section
/-! DEFINITION. The accumulator form of the bit reader (spec/40_bitreader.md R109, spec/10_state.md R28): an
implementation form, not state of the machine. It is here so that its conformance can be claimed. The chunk and
PHANTOM_FETCH are the state's; `draw` is what phantom bytes read as (log 11). -/

namespace Sys2Proof.Machine

/-- `acc`, `nbits`, the fetch pointer `fp` and the raw position `in_pos`. -/
structure AccReader where
  acc   : Nat
  nbits : Nat
  fp    : Nat
  inPos : Nat
deriving DecidableEq, Repr

/-- `InitBits` (R109). -/
def accInit (r : AccReader) : AccReader := { r with acc := 0, nbits := 0, fp := r.inPos }

/-- The position of the next bit, `8*seg_base + C`, by R109's invariants. -/
def AccReader.position (r : AccReader) : Nat := 8 * r.fp - r.nbits

/-- One turn of Ensure's loop (R109). Under PHANTOM_FETCH = Fault fetching a phantom byte is TruncatedInput (R104). -/
def accRefill (s : State) (draw : Nat → Byte) (r : AccReader) : Except Stop AccReader :=
  if s.params.phantomFetch = .fault ∧ s.chunk.length ≤ r.fp + 1 then .error (.raise .truncatedInput (some r.position))
  else
    let w := (inByte s.chunk draw r.fp).toNat + 256 * (inByte s.chunk draw (r.fp + 1)).toNat
    .ok { r with acc := r.acc ||| (w <<< (32 - 16 - r.nbits)), nbits := r.nbits + 16, fp := r.fp + 2 }

/-- Ensure's loop with at most `turns` turns. -/
def accEnsureIn (s : State) (draw : Nat → Byte) (n : Nat) : Nat → AccReader → Except Stop AccReader
  | 0, r => .ok r
  | turns + 1, r =>
    if r.nbits < n then do
      let q ← accRefill s draw r
      accEnsureIn s draw n turns q
    else .ok r

/-- `Ensure(n)` (R109); two turns suffice for every n up to 17. -/
def accEnsure (s : State) (draw : Nat → Byte) (n : Nat) (r : AccReader) : Except Stop AccReader := accEnsureIn s draw n 2 r

/-- `Peek(n)` (R109). -/
def accPeek (s : State) (draw : Nat → Byte) (n : Nat) (r : AccReader) : Except Stop (Nat × AccReader) := do
  let q ← accEnsure s draw n r
  pure (q.acc >>> (32 - n), q)

/-- The byte that holds bit `i` of the accumulator, counted from its first: `ByteOf` (R100) by R109's invariants. -/
def AccReader.byteOf (r : AccReader) (i : Nat) : Nat :=
  let after := r.nbits - 1 - i
  r.fp - 2 * (after / 16 + 1) + (if 8 ≤ after % 16 then 1 else 0)

/-- `Remove(n)` with the phantom rule applied to each byte it consumes (R109, R105): the first bit of a phantom byte
raises, and nothing is removed. -/
def accRemove (s : State) (n : Nat) (r : AccReader) : Except Stop AccReader :=
  match (List.range n).find? (fun i => decide (s.chunk.length ≤ r.byteOf i)) with
  | some i => .error (.raise .truncatedInput (some (r.position + i)))
  | none => .ok { r with acc := (r.acc <<< n) % 2 ^ 32, nbits := r.nbits - n }

/-- ReadBits in this form: Peek, then Remove (R103). -/
def accRead (s : State) (draw : Nat → Byte) (n : Nat) (r : AccReader) : Except Stop (Nat × AccReader) := do
  let (v, q) ← accPeek s draw n r
  let t ← accRemove s n q
  pure (v, t)

/-- DecodeSym in this form: Peek 16 bits, find the code, Remove it (spec/41_huffman.md R126). -/
def accDecodeSym (s : State) (draw : Nat → Byte) (table : DecodeTable) (r : AccReader) : Except Stop (Nat × AccReader) :=
  match table with
  | .empty => .error (.raise (.malformedHuffmanTable .emptyTree) none)
  | .codes entries => do
    let (p, q) ← accPeek s draw 16 r
    match entries.find? (fun e => p / 2 ^ (16 - e.len) = e.code) with
    | some e =>
      let t ← accRemove s e.len q
      pure (e.sym, t)
    | none => .error (.fault .noSuchCode)

/-- `AlignToRaw` (R109): the raw position, and the accumulator emptied. -/
def accAlign (s : State) (draw : Nat → Byte) (r : AccReader) : Except Stop AccReader := do
  let q ← accEnsure s draw 16 r
  let fp := if 16 < q.nbits then q.fp - 2 else q.fp
  pure { acc := 0, nbits := 0, fp := fp, inPos := fp }

/-- R109's invariants, what the accumulator holds (the next `nbits` bits of the segment, left-justified in 32), and that
under PHANTOM_FETCH = Fault every buffered word lies in the chunk. -/
def AccReader.represents (r : AccReader) (s : State) (draw : Nat → Byte) (segBase c : Nat) : Prop :=
  r.nbits ≤ 32 ∧ (c + r.nbits) % 16 = 0 ∧ r.fp = segBase + (c + r.nbits) / 8 ∧
    r.acc = segBits s.chunk draw segBase c r.nbits * 2 ^ (32 - r.nbits) ∧
    (s.params.phantomFetch = .fault → 0 < r.nbits → r.fp ≤ s.chunk.length)

end Sys2Proof.Machine
end

