-- ==== Sys2Proof/WellFormed.lean ====
section
/-! DEFINITION. Which instructions the encodings of the spec can give: the range of each operand. -/

namespace Sys2Proof

/-- The byte sequence of a command is counted by a 32-bit operand word (spec/20_memory.md R50, spec/30_encoding.md R71). -/
def bytesFit (bs : List Byte) : Bool := decide (bs.length < 2 ^ 32)

/-- Two operand words, the first of them the number of the bytes (spec/30_encoding.md R71). -/
def counted (c : HostCommand) : Bool :=
  match c.operands with
  | [len, _] => decide (c.bytes.length = len.toNat)
  | _ => false

/-- No operand word and no byte. -/
def bare (c : HostCommand) : Bool := c.operands.isEmpty && c.bytes.isEmpty

/-- The host has supplied what R71 gives the command and nothing more. -/
def HostCommand.wellFormed (c : HostCommand) : Bool :=
  match cmdKind c.word with
  | .init => bare c
  | .decompress => counted c
  | .seqRun => counted c
  | .readState => bare c
  | .reserved => bare c

/-- Slots 4 to 49 take offset bits (spec/30_encoding.md R85). -/
def slotWithBits (slot : BitVec 6) : Bool := decide (4 ≤ slot.toNat) && decide (slot.toNat ≤ 49)

/-- The operand ranges of the opcode table's rows. -/
def Instr.wellFormed : Instr → Bool
  | .init _ => true
  | .decompress _ chunk => bytesFit chunk
  | .seqRun _ payload => bytesFit payload
  | .readState _ => true
  | .cmdReserved w => decide (cmdKind w = .reserved)
  | .hdrNoE8 => true
  | .hdrE8 => true
  | .blkVerbatim => true
  | .blkAligned => true
  | .blkUncompressed => true
  | .blkInvalid0 => true
  | .blkInvalid4to7 t => decide (4 ≤ t.toNat)
  | .alnLens => true
  | .preLens => true
  | .preDelta z => decide (z.toNat ≤ 16)
  | .preZrun4 => true
  | .preZrun20 => true
  | .preSame => true
  | .mainLit _ => true
  | .mainMatchR0 _ => true
  | .mainMatchR1 _ => true
  | .mainMatchR2 _ => true
  | .mainMatchOne _ => true
  | .mainMatchVerb slot _ => slotWithBits slot
  | .mainMatchAlgn slot _ => slotWithBits slot
  | .lenFooter f => decide (f.toNat ≤ 249)
  | .alnSym _ => true
  | .uncPad => true
  | .uncHdr => true
  | .uncByte => true
  | .frmStd h0 => h0 != 0xFF
  | .frmExplicit => true

end Sys2Proof
end

