-- ==== Sys2Proof/Safety.lean ====
section
/-! DEFINITION. What claims are stated in: the bits ahead of the cursor, when a match is legal and what it leaves, the
invariants of the machine. -/

namespace Sys2Proof.Machine

/-! ### The bits ahead -/

/-- The next `n` bits can be read: none is in a phantom byte, under PHANTOM_FETCH = Fault none is in a word with one
(spec/40_bitreader.md R104, R105), and the cursor stays a 32-bit number (log 12). -/
def State.canRead (s : State) (n : Nat) : Bool :=
  decide (firstPhantom s.chunk.length s.cur.segBase.toNat s.cur.c.toNat n = none) &&
    (decide (s.params.phantomFetch = .draw) ||
      fetchesReal s.chunk.length s.cur.segBase.toNat s.cur.c.toNat n) &&
    decide (s.cur.c.toNat + n < 2 ^ 32)

/-- The field of `n` bits that starts `off` bits past the cursor (spec/30_encoding.md R72). -/
def State.field (s : State) (off n : Nat) : BitVec n :=
  BitVec.ofNat n (segBits s.chunk noDraw s.cur.segBase.toNat (s.cur.c.toNat + off) n)

/-- The state `n` bits further on. -/
def State.skip (s : State) (n : Nat) : State := { s with cur := { s.cur with c := narrow (s.cur.c.toNat + n) } }

/-- The next `n` raw bytes exist and the raw position stays a 32-bit number (spec/40_bitreader.md R107; log 12). -/
def State.canReadRaw (s : State) (n : Nat) : Bool :=
  decide (s.cur.inPos.toNat + n ≤ s.chunk.length) && decide (s.cur.inPos.toNat + n < 2 ^ 32)

/-- The raw byte `off` bytes past the raw position. -/
def State.rawByte (s : State) (off : Nat) : Byte := s.chunk.getD (s.cur.inPos.toNat + off) 0

/-- The little-endian 32-bit number `off` bytes past the raw position (spec/40_bitreader.md R108). -/
def State.rawWord (s : State) (off : Nat) : Word :=
  s.rawByte (off + 3) ++ s.rawByte (off + 2) ++ s.rawByte (off + 1) ++ s.rawByte off

/-- The state `n` raw bytes further on. -/
def State.skipRaw (s : State) (n : Nat) : State :=
  { s with cur := { s.cur with inPos := narrow (s.cur.inPos.toNat + n) } }

/-- `n` fields of `w` bits from the cursor on, written as entries 0 to n-1 of a length array (spec/43_block_headers.md
R189, R190). -/
def State.fieldCells {w : Nat} (s : State) (m : Cells w) : Nat → Cells w
  | 0 => m
  | n + 1 => writeCell (some 0) (s.fieldCells m n) n (s.field (w * n) w)

/-! ### Errors -/

/-- The outcome of taking error `e` at position `pos` in state `s` (spec/60_exceptions.md R257): FAULTED, the four error
registers, the code as the command's result, nothing else. A position past 2^32 is free (log 12). -/
def TakesError (o : Host.Outcome State Fault Refusal) (s : State) (e : Err) (pos : Nat) : Prop :=
  o =
    .next { s with
      stat :=
        { status := .faulted, errCode := errCode e, errSub := errSub e, errPos := narrow pos
          errFrame := s.dec.framesRead }
      phase := .idle
      replies := s.replies ++ [{ status := errCode e, data := .none }] }

/-- The words of the next `n` bits can be fetched (spec/40_bitreader.md R104). -/
def State.canFetch (s : State) (n : Nat) : Prop :=
  s.params.phantomFetch = .draw ∨ fetchesReal s.chunk.length s.cur.segBase.toNat s.cur.c.toNat n = true

/-- Bit `p` ahead of the cursor is the first that lies in a phantom byte. -/
def State.endsAt (s : State) (p : Nat) : Prop :=
  s.chunk.length ≤ byteOf s.cur.segBase.toNat (s.cur.c.toNat + p) ∧
    ∀ k, k < p → byteOf s.cur.segBase.toNat (s.cur.c.toNat + k) < s.chunk.length

/-- A field of `n` bits at the cursor cannot be read, and `pos` is where TruncatedInput is recorded: the cursor for a
fetch that fails (R104), else the field's first phantom bit (R105). -/
def FieldTruncated (s : State) (n pos : Nat) : Prop :=
  (¬ s.canFetch n ∧ pos = 8 * s.cur.segBase.toNat + s.cur.c.toNat) ∨
    (s.canFetch n ∧ ∃ p, p < n ∧ s.endsAt p ∧ pos = 8 * s.cur.segBase.toNat + (s.cur.c.toNat + p))

/-- A symbol at the cursor cannot be decoded for want of bits (spec/41_huffman.md R126): the peek's fetch fails, or a
phantom bit is reached before any code of the table is complete. -/
def SymbolTruncated (s : State) (entries : List CodeEntry) (pos : Nat) : Prop :=
  (¬ s.canFetch 16 ∧ pos = 8 * s.cur.segBase.toNat + s.cur.c.toNat) ∨
    (s.canFetch 16 ∧ ∃ p, p < 16 ∧ s.endsAt p ∧ pos = 8 * s.cur.segBase.toNat + (s.cur.c.toNat + p) ∧
      ∀ e ∈ entries, e.len ≤ p → (s.field 0 e.len).toNat ≠ e.code)

/-- What a step does that cannot decode its symbol with `table`: the error of R127 for an EMPTY table, TruncatedInput for
want of bits, with nothing consumed. -/
def StepNeedsSymbol (s : State) (table : DecodeTable) : Prop :=
  (table = .empty → TakesError (step s) s (.malformedHuffmanTable .emptyTree) s.cur.position) ∧
    ∀ entries pos, table = .codes entries → SymbolTruncated s entries pos → TakesError (step s) s .truncatedInput pos

/-! ### Matches (spec/44_symbols.md R213 to R216) -/

/-- The first check of R213 and R214 that a match of this length and offset fails, in their order; the last only under
WINDOW_INIT = Unspecified. -/
def MatchFails (s : State) (length : Nat) (offset : Word) (e : Err) : Prop :=
  if windowSize s.dec.wb < s.dec.windowPos.toNat + length then e = .windowOverrun .matchCrosses
  else if s.run < length then e = .lengthMismatch
  else if offset.toNat = 0 then e = .windowOverrun .offsetZero
  else if windowSize s.dec.wb < offset.toNat then e = .windowOverrun .offsetBeyond
  else s.params.windowInit = .unspecified ∧ s.dec.written < offset.toNat ∧ e = .unwrittenWindowRead

/-- A new offset inserted at R0 (R208 to R210). -/
def State.inserted (s : State) (offset : Word) : State :=
  { s with dec := { s.dec with r0 := offset, r1 := s.dec.r0, r2 := s.dec.r1 } }

/-- The offset step of a match that needs no aligned symbol (R205 to R210): the offset it takes, and the state after it,
its bits read and the repeated offsets updated. POSITION_BASE is the recurrence of R87 (log 24). -/
def TakesOffset (s : State) (slot : Nat) (offset : Word) (u : State) : Prop :=
  (slot = 0 ∧ offset = s.dec.r0 ∧ u = s) ∨
  (slot = 1 ∧ offset = s.dec.r1 ∧ u = { s with dec := { s.dec with r0 := s.dec.r1, r1 := s.dec.r0 } }) ∨
  (slot = 2 ∧ offset = s.dec.r2 ∧ u = { s with dec := { s.dec with r0 := s.dec.r2, r2 := s.dec.r0 } }) ∨
  (slot = 3 ∧ offset = 1 ∧ u = s.inserted 1) ∨
  (4 ≤ slot ∧ slot ≤ 49 ∧ (s.dec.blockType = 1 ∨ s.dec.blockType = 2 ∧ extraBits slot < 3) ∧
    s.canRead (extraBits slot) = true ∧ offset.toNat = positionBase slot - 2 + (s.field 0 (extraBits slot)).toNat ∧
    u = (s.skip (extraBits slot)).inserted offset)

/-- The main-tree element of a match of this slot and length header in the current block (R202, R205 to R210). -/
def MatchElement (s : State) (slot : BitVec 6) (lh : BitVec 3) (i : Instr) : Prop :=
  (slot = 0 ∧ i = .mainMatchR0 lh ∨ slot = 1 ∧ i = .mainMatchR1 lh ∨ slot = 2 ∧ i = .mainMatchR2 lh ∨
      slot = 3 ∧ i = .mainMatchOne lh) ∧ (s.dec.blockType = 1 ∨ s.dec.blockType = 2) ∨
    4 ≤ slot.toNat ∧ (s.dec.blockType = 1 ∧ i = .mainMatchVerb slot lh ∨ s.dec.blockType = 2 ∧ i = .mainMatchAlgn slot lh)

/-- The window address `k` bytes behind the write cursor. -/
def State.behind (s : State) (k : Nat) : Nat := (((s.dec.windowPos.toNat : Int) - k) % windowSize s.dec.wb).toNat

/-- A match of this length and offset passes every check of R213 and R214, and the bytes it copies are there. -/
def MatchLegal (s : State) (length : Nat) (offset : Word) : Prop :=
  s.dec.windowPos.toNat + length ≤ windowSize s.dec.wb ∧ length ≤ s.run ∧
    0 < offset.toNat ∧ offset.toNat ≤ windowSize s.dec.wb ∧
    (s.params.windowInit = .unspecified → offset.toNat ≤ s.dec.written) ∧
    ∀ k, 1 ≤ k → k ≤ offset.toNat → (s.windowByte (s.behind k)).isSome = true

/-- What the copy of a match leaves (R215): `length` bytes from `window_pos` on, each equal to the byte `offset` behind
it (the byte of the same copy where `offset` is shorter), no other byte changed, the cursor and `written` moved, the run
shorter, nothing else. -/
def MatchLeaves (s : State) (length : Nat) (offset : Word) (t : State) : Prop :=
  (∃ window, t =
    ({ s with
        dec :=
          { s.dec with
            window := window
            written := min (s.dec.written + length) (windowSize s.dec.wb)
            windowPos := s.dec.windowPos + BitVec.ofNat 22 length } } : State).spendRun length) ∧
    (∀ i, i < length →
      t.windowByte (s.dec.windowPos.toNat + i) =
        if i < offset.toNat then s.windowByte (s.behind (offset.toNat - i))
        else t.windowByte (s.dec.windowPos.toNat + i - offset.toNat)) ∧
    ∀ a, a < s.dec.windowPos.toNat ∨ s.dec.windowPos.toNat + length ≤ a → t.windowByte a = s.windowByte a

/-- The number of bytes a main-tree element stores at `window_pos`: 1 for a literal, the match length for a match that
copies, 0 for one that only awaits its footer or its aligned symbol (R201, R203, R204, R210, R215). -/
def storedBytes (s : State) : Instr → Nat
  | .mainLit _ => 1
  | .mainMatchR0 lh => if lh = 7 then 0 else matchLength lh 0
  | .mainMatchR1 lh => if lh = 7 then 0 else matchLength lh 0
  | .mainMatchR2 lh => if lh = 7 then 0 else matchLength lh 0
  | .mainMatchOne lh => if lh = 7 then 0 else matchLength lh 0
  | .mainMatchVerb _ lh => if lh = 7 then 0 else matchLength lh 0
  | .mainMatchAlgn slot lh => if lh = 7 ∨ 3 ≤ extraBits slot.toNat then 0 else matchLength lh 0
  | .lenFooter f => match s.phase with
    | .footer slot => if s.dec.blockType = 2 ∧ 3 ≤ extraBits slot.toNat then 0 else matchLength 7 f.toNat
    | _ => 0
  | .alnSym _ => match s.phase with
    | .alignedSym length _ => length
    | _ => 0
  | _ => 0

/-! ### Invariants -/

/-- The memory is canonical: the window under its parameter, the length arrays with 0 as the unlisted value. -/
def MemoryCanonical (s : State) : Prop :=
  Memory.wf s.params s.dec.window = true ∧ cellsWf (some 0) s.dec.mainLen = true ∧
    cellsWf (some 0) s.dec.lengthLen = true ∧ cellsWf (some 0) s.dec.alignedLen = true ∧
    cellsWf (some 0) s.dec.preLen = true

/-- The entries of a length array lie below `n` and are code lengths 0 to 16 (spec/10_state.md R32, spec/30_encoding.md
R82). -/
def LensOk {w : Nat} (n : Nat) (m : Cells w) : Prop := ∀ c ∈ m, c.1 < n ∧ c.2.toNat ≤ 16

/-- The length arrays keep their sizes and hold code lengths (spec/10_state.md R32). -/
def LengthsInRange (s : State) : Prop :=
  LensOk 720 s.dec.mainLen ∧ LensOk 314 s.dec.lengthLen ∧ LensOk 8 s.dec.alignedLen ∧ LensOk 20 s.dec.preLen

/-- A list of lengths of an alphabet of `n` symbols whose Kraft sum is exactly 1 (spec/41_huffman.md R122). -/
def CompleteLens (n : Nat) (lens : List (Nat × Nat)) : Prop :=
  (∀ c ∈ lens, c.1 < n ∧ 1 ≤ c.2 ∧ c.2 ≤ 16) ∧ kraftSum lens = 2 ^ 16

/-- EMPTY, or the canonical code of a complete set of lengths (spec/10_state.md R44, spec/41_huffman.md R122). -/
def TableOk (n : Nat) (t : DecodeTable) : Prop :=
  t = .empty ∨ ∃ lens, CompleteLens n lens ∧ t = .codes (canonicalCode lens)

/-- The four decode tables are EMPTY or complete (spec/41_huffman.md R125). -/
def TablesOk (s : State) : Prop :=
  TableOk 20 s.dec.preTable ∧ TableOk 656 s.dec.mainTable ∧ TableOk 250 s.dec.lengthTable ∧ TableOk 8 s.dec.alignedTable

/-- The window registers in range (spec/10_state.md R21, R23, R30, R36): WB in 15 to 21, `window_pos` and `written` at
most WS, `frames_read` at most 32768. -/
def WindowInRange (s : State) : Prop :=
  15 ≤ s.dec.wb.toNat ∧ s.dec.wb.toNat ≤ 21 ∧ s.dec.windowPos.toNat ≤ windowSize s.dec.wb ∧
    s.dec.written ≤ windowSize s.dec.wb ∧ s.dec.framesRead.toNat ≤ 32768

/-- `written` counts the bytes behind the write cursor that hold a value (spec/10_state.md R36); under Fill every byte
does and `written` is WS. -/
def WrittenCovers (s : State) : Prop :=
  (∀ k, 1 ≤ k → k ≤ s.dec.written → (s.windowByte (s.behind k)).isSome = true) ∧
    (s.params.windowInit ≠ .unspecified → s.dec.written = windowSize s.dec.wb)

/-- Inside a run the write cursor and the bytes left stay within the window (spec/42_commands.md R144), and the block's
type is a valid one. -/
def RunFits (s : State) : Prop :=
  s.dec.windowPos.toNat + s.run ≤ windowSize s.dec.wb ∧
    (s.dec.blockType = 1 ∨ s.dec.blockType = 2 ∨ s.dec.blockType = 3)

/-- What each phase of the grammar relies on (spec/30_encoding.md R73). -/
def PhaseOk (s : State) : Prop :=
  match s.phase with
  | .runLoop => RunFits s
  | .footer _ => RunFits s ∧ (s.dec.blockType = 1 ∨ s.dec.blockType = 2)
  | .alignedSym _ _ => RunFits s
  | .seqLoop => s.seq.isSome = true
  | .frameHdr => s.seq.isSome = true
  | .seqFinish => s.seq.isSome = true
  | _ => True

/-- The block's state in the life of a stream (status READY): the window, and a valid type for a block with bytes left. -/
def StreamOk (s : State) : Prop :=
  s.stat.status = .ready →
    WindowInRange s ∧ WrittenCovers s ∧
      (s.dec.blockRemaining = 0 ∨ s.dec.blockType = 1 ∨ s.dec.blockType = 2 ∨ s.dec.blockType = 3)

/-- A command is in progress only while the status is READY (spec/60_exceptions.md R256, R257). -/
def BusyIsReady (s : State) : Prop := s.phase ≠ .idle → s.stat.status = .ready

/-- The input chunk's length is a 32-bit number (spec/20_memory.md R50: `in_len`). -/
def ChunkFits (s : State) : Prop := s.chunk.length < 2 ^ 32

/-- The invariant of the machine. -/
def State.Inv (s : State) : Prop :=
  MemoryCanonical s ∧ LengthsInRange s ∧ TablesOk s ∧ StreamOk s ∧ BusyIsReady s ∧ PhaseOk s ∧ ChunkFits s

end Sys2Proof.Machine
end

