-- ==== Sys2Proof/Certificates/Slice0/Obligations.lean ====
section
/-! DEFINITION. The statements about the block, for the provers. Rules are those of spec/ unless a log entry is named.
Throughout, one step is one element or one rule between elements and `phase` says what comes next (log 2); `pending` and
`replies` are the host's port (log 3). -/

open Sys2Proof Sys2Proof.Machine

/-! ## Host commands -/

/-- R141: INIT, in every status. 15 to 21: every element takes its value of R40, NSLOTS and MAIN_ELEMENTS those of R21, and
the status is READY, with result OK. Any other operand: UnsupportedWindowSize, status FAULTED, position 0; every element but the status registers is then
unspecified (log 8), so nothing is said of them. The values of R40 that the model chose: aligned_len and pre_len (log 9), not stated
here. -/
def Obligations.InitStartsStreamOrFaults : Prop :=
  ∀ (s : State) (wb : BitVec 8), s.phase = .idle →
    (15 ≤ wb.toNat ∧ wb.toNat ≤ 21 →
      ∃ t, exec (.init wb) s = .next t ∧
        t.stat = { status := .ready, errCode := 0, errSub := 0, errPos := 0, errFrame := 0 } ∧
        t.dec.wb.toNat = wb.toNat ∧ windowSize t.dec.wb = 2 ^ wb.toNat ∧
        (wb.toNat, numSlots t.dec.wb, mainElements t.dec.wb) ∈
          [(15, 30, 496), (16, 32, 512), (17, 34, 528), (18, 36, 544), (19, 38, 560), (20, 42, 592), (21, 50, 656)] ∧
        t.dec.windowPos = 0 ∧ t.dec.r0 = 1 ∧ t.dec.r1 = 1 ∧ t.dec.r2 = 1 ∧
        t.dec.blockType = 0 ∧ t.dec.blockLength = 0 ∧ t.dec.blockRemaining = 0 ∧
        t.dec.headerRead = false ∧ t.dec.framesRead = 0 ∧
        t.dec.e8FileSize = 0 ∧ t.dec.e8CurPos = 0 ∧ t.dec.e8Started = false ∧
        (∀ x, lenAt t.dec.mainLen x = 0 ∧ lenAt t.dec.lengthLen x = 0) ∧
        t.dec.preTable = .empty ∧ t.dec.mainTable = .empty ∧ t.dec.lengthTable = .empty ∧ t.dec.alignedTable = .empty ∧
        (s.params.windowInit = .unspecified → t.dec.written = 0 ∧ ∀ a, t.windowByte a = none) ∧
        (∀ v, s.params.windowInit = .fill v → t.dec.written = 2 ^ wb.toNat ∧ ∀ a, t.windowByte a = some v) ∧
        t.phase = .idle ∧ t.replies = s.replies ++ [{ status := 0, data := .none }]) ∧
    (wb.toNat < 15 ∨ 21 < wb.toNat →
      ∃ t, exec (.init wb) s = .next t ∧
        t.stat =
          { status := .faulted, errCode := 1, errSub := 0, errPos := 0, errFrame := s.dec.framesRead } ∧
        t.phase = .idle ∧ t.replies = s.replies ++ [{ status := 1, data := .none }])

/-- R142, its start: a DECOMPRESS in status READY takes the chunk, sets the cursor to bit 0 of it and `togo` to
`out_len`, and goes to the stream header if it has not been read, else to MainLoop; nothing else changes. R71: the chunk
is `in_len` bytes, those the host supplied (one it did not supply is free, log 13), and `out_len` the second operand. -/
def Obligations.DecompressStartsFrame : Prop :=
  (∀ (s : State) (outLen : Word) (chunk : List Byte), s.phase = .idle → s.stat.status = .ready →
    exec (.decompress outLen chunk) s =
      .next { s with
        chunk := chunk, outLen := outLen, togo := outLen, seq := none
        cur := { mode := .bit, segBase := 0, c := 0, inPos := 0 }
        phase := if s.dec.headerRead = true then .mainLoop else .streamHdr }) ∧
  (∀ (c : HostCommand) (draw : Nat) (inLen outLen : Word), c.word = 2 → c.operands[0]? = some inLen →
    c.operands[1]? = some outLen →
    ∃ chunk, decode (.cmd c draw) = .ok (.decompress outLen chunk) ∧ chunk.length = inLen.toNat ∧
      ∀ k, k < inLen.toNat → k < c.bytes.length → chunk[k]? = c.bytes[k]?)

/-- R231, R232: a SEQ_RUN in status READY continues the stream as it stands (no INIT): `pos` 0, OUT empty, and the loop
test comes next; nothing else changes. R71: the payload is `compressed_len` bytes, those the host supplied (one it did
not supply is free, log 13), and `decompressed_len` the second operand. -/
def Obligations.SeqRunStartsAtPayloadHead : Prop :=
  (∀ (s : State) (len : Word) (payload : List Byte), s.phase = .idle → s.stat.status = .ready →
    exec (.seqRun len payload) s =
      .next { s with
        seq := some { payload := payload, pos := 0, decompressedLen := len, out := [] }
        phase := .seqLoop }) ∧
  (∀ (c : HostCommand) (draw : Nat) (inLen len : Word), c.word = 3 → c.operands[0]? = some inLen →
    c.operands[1]? = some len →
    ∃ payload, decode (.cmd c draw) = .ok (.seqRun len payload) ∧ payload.length = inLen.toNat ∧
      ∀ k, k < inLen.toNat → k < c.bytes.length → payload[k]? = c.bytes[k]?)

/-- R256: DECOMPRESS and SEQ_RUN in a status other than READY return NotReady (9); a command word with a reserved code or
reserved bits decodes to CMD.RESERVED, and that returns IllegalCommand (11). A refused command reads no operand and no
byte (a step that takes one does the same whatever operands and bytes come with it), writes no state and delivers no
output: only the host's reply is new. -/
def Obligations.RefusedCommandsChangeNothing : Prop :=
  (∀ (s : State) (n : Word) (bs : List Byte), s.phase = .idle → s.stat.status ≠ .ready →
    exec (.decompress n bs) s = .next { s with replies := s.replies ++ [{ status := 9, data := .none }] } ∧
    exec (.seqRun n bs) s = .next { s with replies := s.replies ++ [{ status := 9, data := .none }] }) ∧
  (∀ (s : State) (w : Word), s.phase = .idle →
    exec (.cmdReserved w) s = .next { s with replies := s.replies ++ [{ status := 11, data := .none }] }) ∧
  (∀ (s : State) (c : HostCommand) (rest : List HostCommand), s.phase = .idle → s.pending = c :: rest →
    ((c.word = 2 ∨ c.word = 3) → s.stat.status ≠ .ready →
      step s = .next { s with pending := rest, replies := s.replies ++ [{ status := 9, data := .none }] }) ∧
    ((c.word.extractLsb' 4 4 ≠ 0 ∨ c.word.extractLsb' 16 16 ≠ 0 ∨ c.word.extractLsb' 0 4 = 0 ∨
      5 ≤ (c.word.extractLsb' 0 4).toNat ∨
      ((c.word.extractLsb' 0 4 = 2 ∨ c.word.extractLsb' 0 4 = 3) ∧ c.word.extractLsb' 8 8 ≠ 0)) →
      (∀ draw, decode (.cmd c draw) = .ok (.cmdReserved c.word)) ∧
      step s = .next { s with pending := rest, replies := s.replies ++ [{ status := 11, data := .none }] }))

/-- R155: the command word with `op` 4 and `arg` id is READ_STATE; in every status it returns OK and the 32-bit value of
the register; a reserved id returns 0; it writes nothing and cannot fault. -/
def Obligations.ReadStateReturnsRegister : Prop :=
  (∀ (c : HostCommand) (draw : Nat), c.word.extractLsb' 0 4 = 4 → c.word.extractLsb' 4 4 = 0 →
    c.word.extractLsb' 16 16 = 0 → decode (.cmd c draw) = .ok (.readState (c.word.extractLsb' 8 8))) ∧
  ∀ (s : State) (id : BitVec 8), s.phase = .idle →
    exec (.readState id) s =
      .next { s with replies := s.replies ++ [{ status := 0, data := .value (s.register id) }] } ∧
    (0x12 ≤ id.toNat → s.register id = 0)

/-- R39, the table's id and bits columns: which element each register shows, zero-extended to 32 bits. -/
def Obligations.RegisterViewShowsElements : Prop :=
  ∀ s : State,
    (s.stat.status = .uninit → s.register 0x00 = 0) ∧ (s.stat.status = .ready → s.register 0x00 = 1) ∧
    (s.stat.status = .faulted → s.register 0x00 = 2) ∧
    (s.register 0x01).toNat = s.stat.errCode.toNat ∧ (s.register 0x02).toNat = s.stat.errSub.toNat ∧
    s.register 0x03 = s.stat.errPos ∧ (s.register 0x04).toNat = s.stat.errFrame.toNat ∧
    (s.register 0x05).toNat = s.dec.wb.toNat ∧ (s.register 0x06).toNat = s.dec.windowPos.toNat ∧
    s.register 0x07 = s.dec.r0 ∧ s.register 0x08 = s.dec.r1 ∧ s.register 0x09 = s.dec.r2 ∧
    (s.register 0x0A).toNat = s.dec.blockType.toNat ∧ (s.register 0x0B).toNat = s.dec.blockLength.toNat ∧
    (s.register 0x0C).toNat = s.dec.blockRemaining.toNat ∧ (s.register 0x0D).toNat = s.dec.headerRead.toNat ∧
    (s.register 0x0E).toNat = s.dec.framesRead.toNat ∧ s.register 0x0F = s.dec.e8FileSize ∧
    s.register 0x10 = s.dec.e8CurPos ∧ (s.register 0x11).toNat = s.dec.e8Started.toNat

/-! ## Headers -/

/-- R170: HDR.NOE8 sets `e8_filesize` to 0 and consumes nothing past its flag; HDR.E8 sets it to hi * 65536 + lo, the
next two 16-bit fields; both set `header_read`; MainLoop follows. -/
def Obligations.StreamHeaderSetsFileSize : Prop :=
  ∀ s : State, s.phase = .streamHdr →
    exec .hdrNoE8 s =
      .next { s with dec := { s.dec with e8FileSize := 0, headerRead := true }, phase := .mainLoop } ∧
    (s.canRead 32 = true →
      ∃ t, exec .hdrE8 s = .next t ∧
        t.dec.e8FileSize.toNat = (s.field 0 16).toNat * 65536 + (s.field 16 16).toNat ∧
        t = { s with
          cur := { s.cur with c := BitVec.ofNat 32 (s.cur.c.toNat + 32) }
          dec := { s.dec with e8FileSize := t.dec.e8FileSize, headerRead := true }
          phase := .mainLoop })

/-- R172 with R173 and R174: after the type field, BLK.VERBATIM and BLK.ALIGNED read 24 bits of length (hi * 256 + lo),
set `block_type`, `block_length` and `block_remaining`, and go to the first tree-length record, or to the aligned lengths. -/
def Obligations.CodedBlockHeaderSetsBlock : Prop :=
  ∀ s : State, s.phase = .blockHdr → s.canRead 24 = true →
    ∃ t u, exec .blkVerbatim s = .next t ∧ exec .blkAligned s = .next u ∧
      t.dec.blockLength.toNat = (s.field 0 16).toNat * 256 + (s.field 16 8).toNat ∧
      t = { s with
        cur := { s.cur with c := BitVec.ofNat 32 (s.cur.c.toNat + 24) }
        dec := { s.dec with blockType := 1, blockLength := t.dec.blockLength, blockRemaining := t.dec.blockLength }
        phase := .preLens .main1 } ∧
      u = { s with
        cur := { s.cur with c := BitVec.ofNat 32 (s.cur.c.toNat + 24) }
        dec := { s.dec with blockType := 2, blockLength := t.dec.blockLength, blockRemaining := t.dec.blockLength }
        phase := .alnLens }

/-- R179 with R172 and R106: BLK.UNCOMPRESSED sets the block's elements and `e8_started` and leaves bit mode for raw mode
at the next 16-bit word of the segment, 1 to 16 bits on, C being abandoned; the repeated offsets come next. Under
PHANTOM_FETCH = Fault the 16 bits at the alignment are fetched, and one in a word with a phantom byte raises
TruncatedInput (5) at the cursor, the block's elements and `e8_started` written. (That the alignment belongs to this
instruction is the model's reading, log 16.) -/
def Obligations.UncompressedHeaderAligns : Prop :=
  ∀ s : State, s.phase = .blockHdr → s.canRead 24 = true →
    ((s.skip 24).canFetch 16 → s.cur.segBase.toNat + 2 * ((s.cur.c.toNat + 24) / 16 + 1) < 2 ^ 32 →
    ∃ t, exec .blkUncompressed s = .next t ∧
      t.dec.blockLength.toNat = (s.field 0 16).toNat * 256 + (s.field 16 8).toNat ∧
      t.cur.mode = .raw ∧ t.cur.segBase = s.cur.segBase ∧ t.cur.c = 0 ∧
      t.cur.inPos.toNat = s.cur.segBase.toNat + 2 * ((s.cur.c.toNat + 24) / 16 + 1) ∧
      t = { s with
        cur := t.cur
        dec :=
          { s.dec with
            blockType := 3, blockLength := t.dec.blockLength, blockRemaining := t.dec.blockLength, e8Started := true }
        phase := .uncHdr }) ∧
    (¬ (s.skip 24).canFetch 16 →
      ∃ length : BitVec 24, length.toNat = (s.field 0 16).toNat * 256 + (s.field 16 8).toNat ∧
        TakesError (exec .blkUncompressed s)
          { s.skip 24 with
            dec :=
              { s.dec with blockType := 3, blockLength := length, blockRemaining := length, e8Started := true } }
          .truncatedInput (8 * s.cur.segBase.toNat + (s.cur.c.toNat + 24)))

/-- R181 with R172: BLK.INVALID0 and BLK.INVALID4_7 write the block's elements from the header and raise
InvalidBlockType (3) at the cursor: FAULTED, no output, nothing else changed. -/
def Obligations.InvalidBlockTypeFaults : Prop :=
  ∀ (s : State) (i : Instr) (ty : BitVec 3), s.phase = .blockHdr → s.canRead 24 = true →
    (i = .blkInvalid0 ∧ ty = 0 ∨ i = .blkInvalid4to7 ty ∧ 4 ≤ ty.toNat) →
    8 * s.cur.segBase.toNat + s.cur.c.toNat + 24 < 2 ^ 32 → s.cur.mode = .bit →
    ∃ t, exec i s = .next t ∧
      t.dec.blockLength.toNat = (s.field 0 16).toNat * 256 + (s.field 16 8).toNat ∧
      t = { s with
        cur := { s.cur with c := BitVec.ofNat 32 (s.cur.c.toNat + 24) }
        dec := { s.dec with blockType := ty, blockLength := t.dec.blockLength, blockRemaining := t.dec.blockLength }
        stat :=
          { status := .faulted, errCode := 3, errSub := 0
            errPos := BitVec.ofNat 32 (8 * s.cur.segBase.toNat + s.cur.c.toNat + 24)
            errFrame := s.dec.framesRead }
        phase := .idle
        replies := s.replies ++ [{ status := 3, data := .none }] }

/-- R189: ALN.LENS reads eight 3-bit lengths in order, builds the aligned table from them where they are complete or all
zero, and goes to the first tree-length record; a bad set raises MalformedHuffmanTable with Build's sub-cause, the
lengths written and the table as before (that of the table is the model's choice, log 15). -/
def Obligations.AlignedLengthsAreRead : Prop :=
  ∀ s : State, s.phase = .alnLens → s.canRead 24 = true → MemoryCanonical s →
    (∀ k, k < 8 → lenAt (s.fieldCells s.dec.alignedLen 8) k = s.field (3 * k) 3) ∧
    (∀ table, buildTable (codeLens (s.fieldCells s.dec.alignedLen 8) 8) = .ok table →
      exec .alnLens s =
        .next { s with
          cur := { s.cur with c := BitVec.ofNat 32 (s.cur.c.toNat + 24) }
          dec := { s.dec with alignedLen := s.fieldCells s.dec.alignedLen 8, alignedTable := table }
          phase := .preLens .main1 }) ∧
    (∀ cause, buildTable (codeLens (s.fieldCells s.dec.alignedLen 8) 8) = .error cause →
      TakesError (exec .alnLens s)
        { s.skip 24 with dec := { s.dec with alignedLen := s.fieldCells s.dec.alignedLen 8 } }
        (.malformedHuffmanTable cause) (s.skip 24).cur.position)

/-- R190: PRE.LENS reads twenty 4-bit lengths in order, builds the pre-tree from them where they are complete or all
zero, and goes to the head of its record's range; a bad set raises MalformedHuffmanTable with Build's sub-cause, the
lengths written and the table as before (that of the table is the model's choice, log 15). -/
def Obligations.PreTreeLengthsAreRead : Prop :=
  ∀ (s : State) (r : Record), s.phase = .preLens r → s.canRead 80 = true → MemoryCanonical s →
    (∀ k, k < 20 → lenAt (s.fieldCells s.dec.preLen 20) k = s.field (4 * k) 4) ∧
    (∀ table, buildTable (codeLens (s.fieldCells s.dec.preLen 20) 20) = .ok table →
      exec .preLens s =
        .next { s with
          cur := { s.cur with c := BitVec.ofNat 32 (s.cur.c.toNat + 80) }
          dec := { s.dec with preLen := s.fieldCells s.dec.preLen 20, preTable := table }
          phase := .record r (if r = .main2 then 256 else 0) }) ∧
    (∀ cause, buildTable (codeLens (s.fieldCells s.dec.preLen 20) 20) = .error cause →
      TakesError (exec .preLens s)
        { s.skip 80 with dec := { s.dec with preLen := s.fieldCells s.dec.preLen 20 } }
        (.malformedHuffmanTable cause) (s.skip 80).cur.position)

/-! ## Pre-tree elements -/

/-- R183: PRE.DELTA writes (len[x] - z) mod 17 at index x of the record's array and nothing else, and x moves on by
one. -/
def Obligations.PreDeltaWritesOneLength : Prop :=
  ∀ (s : State) (r : Record) (x : Nat) (z : BitVec 5), s.phase = .record r x → x < r.last s.dec.wb → MemoryCanonical s →
    ∃ t, exec (.preDelta z) s = .next t ∧ t.phase = .record r (x + 1) ∧
      ((lenAt (t.recordLens r) x).toNat : Int) = (((lenAt (s.recordLens r) x).toNat : Int) - z.toNat) % 17 ∧
      (∀ y, y ≠ x → lenAt (t.recordLens r) y = lenAt (s.recordLens r) y) ∧
      t = (s.setRecordLens (t.recordLens r) r).goto (.record r (x + 1))

/-- R184, R185 and R186: PRE.ZRUN4 reads y:4 and writes 4 + y zeros from x on, PRE.ZRUN20 reads y:5 and writes 20 + y,
past the record's end too; x moves on by the count. -/
def Obligations.ZeroRunsWriteZeros : Prop :=
  ∀ (s : State) (r : Record) (x : Nat), s.phase = .record r x → x < r.last s.dec.wb → MemoryCanonical s →
    (s.canRead 4 = true →
      ∃ t, exec .preZrun4 s = .next t ∧
        (∀ y, lenAt (t.recordLens r) y =
          if x ≤ y ∧ y < x + (4 + (s.field 0 4).toNat) then 0 else lenAt (s.recordLens r) y) ∧
        t = ((s.skip 4).setRecordLens (t.recordLens r) r).goto (.record r (x + (4 + (s.field 0 4).toNat)))) ∧
    (s.canRead 5 = true →
      ∃ t, exec .preZrun20 s = .next t ∧
        (∀ y, lenAt (t.recordLens r) y =
          if x ≤ y ∧ y < x + (20 + (s.field 0 5).toNat) then 0 else lenAt (s.recordLens r) y) ∧
        t = ((s.skip 5).setRecordLens (t.recordLens r) r).goto (.record r (x + (20 + (s.field 0 5).toNat))))

/-- R187: PRE.SAME reads y:1 and a second pre-tree symbol z2 of at most 16, and writes 4 + y copies of
(len[x] - z2) mod 17, len[x] being the old length, from x on. -/
def Obligations.SameRunWritesCopies : Prop :=
  ∀ (s u : State) (r : Record) (x z2 : Nat), s.phase = .record r x → x < r.last s.dec.wb → MemoryCanonical s →
    s.canRead 1 = true → (decodeSym s.dec.preTable).run (s.skip 1) = .ok z2 u → z2 ≤ 16 →
    ∃ t, exec .preSame s = .next t ∧
      (∀ y, ((lenAt (t.recordLens r) y).toNat : Int) =
        if x ≤ y ∧ y < x + (4 + (s.field 0 1).toNat) then (((lenAt (s.recordLens r) x).toNat : Int) - z2) % 17
        else (lenAt (s.recordLens r) y).toNat) ∧
      t = (u.setRecordLens (t.recordLens r) r).goto (.record r (x + (4 + (s.field 0 1).toNat)))

/-- R188: a second symbol of 17, 18 or 19 raises MalformedHuffmanTable (2) with sub-cause 4; no length is written. -/
def Obligations.SameRunRejectsRunSymbol : Prop :=
  ∀ (s u : State) (r : Record) (x z2 : Nat), s.phase = .record r x → x < r.last s.dec.wb → s.canRead 1 = true →
    (decodeSym s.dec.preTable).run (s.skip 1) = .ok z2 u → 17 ≤ z2 → z2 ≤ 19 →
    ∃ t, exec .preSame s = .next t ∧ t.stat.status = .faulted ∧ t.stat.errCode = 2 ∧ t.stat.errSub = 4 ∧
      t.dec = s.dec ∧ t.phase = .idle ∧ t.replies = s.replies ++ [{ status := 2, data := .none }]

/-! ## Literals, matches, raw bytes -/

/-- R201: MAIN.LIT writes its byte at `window_pos`, moves `window_pos` and `written` (R55), takes one byte off the run
(R144); every other byte and element is as before. -/
def Obligations.LiteralWritesItsByte : Prop :=
  ∀ (s : State) (b : Byte), s.phase = .runLoop → 0 < s.run → (s.dec.blockType = 1 ∨ s.dec.blockType = 2) →
    s.dec.windowPos.toNat < windowSize s.dec.wb → MemoryCanonical s →
    ∃ t, exec (.mainLit b) s = .next t ∧
      t.windowByte s.dec.windowPos.toNat = some b ∧
      (∀ a, a ≠ s.dec.windowPos.toNat → t.windowByte a = s.windowByte a) ∧
      t = { s with
        run := s.run - 1
        dec :=
          { s.dec with
            window := t.dec.window
            windowPos := s.dec.windowPos + 1
            written := min (s.dec.written + 1) (windowSize s.dec.wb) } }

/-- R205 to R208 with R204, R215: a match of slot 0, 1, 2 or 3 with lh < 7 that passes the checks copies lh + 2 bytes
from its offset: R0, R1, R2 or 1; slot 0 leaves the registers, slots 1 and 2 swap with R0, slot 3 inserts 1. -/
def Obligations.RepeatedOffsetMatchCopies : Prop :=
  ∀ (s : State) (lh : BitVec 3), s.phase = .runLoop → (s.dec.blockType = 1 ∨ s.dec.blockType = 2) → lh ≠ 7 →
    WindowInRange s → MemoryCanonical s →
    (MatchLegal s (lh.toNat + 2) s.dec.r0 →
      ∃ t, exec (.mainMatchR0 lh) s = .next t ∧ MatchLeaves s (lh.toNat + 2) s.dec.r0 t) ∧
    (MatchLegal s (lh.toNat + 2) s.dec.r1 →
      ∃ t, exec (.mainMatchR1 lh) s = .next t ∧
        MatchLeaves { s with dec := { s.dec with r0 := s.dec.r1, r1 := s.dec.r0 } } (lh.toNat + 2) s.dec.r1 t) ∧
    (MatchLegal s (lh.toNat + 2) s.dec.r2 →
      ∃ t, exec (.mainMatchR2 lh) s = .next t ∧
        MatchLeaves { s with dec := { s.dec with r0 := s.dec.r2, r2 := s.dec.r0 } } (lh.toNat + 2) s.dec.r2 t) ∧
    (MatchLegal s (lh.toNat + 2) 1 →
      ∃ t, exec (.mainMatchOne lh) s = .next t ∧
        MatchLeaves { s with dec := { s.dec with r0 := 1, r1 := s.dec.r0, r2 := s.dec.r1 } } (lh.toNat + 2) 1 t)

/-- R203, R216: a match header with lh = 7 changes nothing but the grammar: its length footer comes next. -/
def Obligations.MatchHeaderAwaitsFooter : Prop :=
  ∀ (s : State) (slot : BitVec 6), s.phase = .runLoop → 0 < s.run →
    ((s.dec.blockType = 1 ∨ s.dec.blockType = 2) →
      exec (.mainMatchR0 7) s = .next { s with phase := .footer 0 } ∧
      exec (.mainMatchR1 7) s = .next { s with phase := .footer 1 } ∧
      exec (.mainMatchR2 7) s = .next { s with phase := .footer 2 } ∧
      exec (.mainMatchOne 7) s = .next { s with phase := .footer 3 }) ∧
    (s.dec.blockType = 1 → exec (.mainMatchVerb slot 7) s = .next { s with phase := .footer slot }) ∧
    (s.dec.blockType = 2 → exec (.mainMatchAlgn slot 7) s = .next { s with phase := .footer slot })

/-- R209 with R204, R215: a match of slot 4 to 49 in a VERBATIM block reads EXTRA_BITS[slot] bits v, takes the offset
POSITION_BASE[slot] - 2 + v (POSITION_BASE by the recurrence of R87, log 24), inserts it at R0, and copies. -/
def Obligations.VerbatimMatchCopies : Prop :=
  ∀ (s : State) (slot : BitVec 6) (lh : BitVec 3) (offset : Word), s.phase = .runLoop → s.dec.blockType = 1 → lh ≠ 7 →
    4 ≤ slot.toNat → slot.toNat ≤ 49 → s.canRead (extraBits slot.toNat) = true →
    offset.toNat = positionBase slot.toNat - 2 + (s.field 0 (extraBits slot.toNat)).toNat →
    WindowInRange s → MemoryCanonical s → MatchLegal s (lh.toNat + 2) offset →
    ∃ t, exec (.mainMatchVerb slot lh) s = .next t ∧
      MatchLeaves
        { s.skip (extraBits slot.toNat) with dec := { s.dec with r0 := offset, r1 := s.dec.r0, r2 := s.dec.r1 } }
        (lh.toNat + 2) offset t

/-- R210: a match of slot 4 to 49 in an ALIGNED block. EXTRA_BITS above 3: EXTRA_BITS - 3 bits v are read and the aligned
symbol comes next, the offset less it being POSITION_BASE[slot] - 2 + 8v. EXTRA_BITS = 3: the aligned symbol comes next at
once. EXTRA_BITS below 3: as in a VERBATIM block. POSITION_BASE is the recurrence of R87 (log 24). -/
def Obligations.AlignedMatchTakesOffset : Prop :=
  ∀ (s : State) (slot : BitVec 6) (lh : BitVec 3), s.phase = .runLoop → 0 < s.run → s.dec.blockType = 2 → lh ≠ 7 →
    4 ≤ slot.toNat → slot.toNat ≤ 49 →
    (3 < extraBits slot.toNat → s.canRead (extraBits slot.toNat - 3) = true →
      exec (.mainMatchAlgn slot lh) s =
        .next { s.skip (extraBits slot.toNat - 3) with
          phase := .alignedSym (lh.toNat + 2)
            (positionBase slot.toNat - 2 + 8 * (s.field 0 (extraBits slot.toNat - 3)).toNat) }) ∧
    (extraBits slot.toNat = 3 →
      exec (.mainMatchAlgn slot lh) s =
        .next { s with phase := .alignedSym (lh.toNat + 2) (positionBase slot.toNat - 2) }) ∧
    (∀ offset : Word, extraBits slot.toNat < 3 → s.canRead (extraBits slot.toNat) = true →
      offset.toNat = positionBase slot.toNat - 2 + (s.field 0 (extraBits slot.toNat)).toNat →
      WindowInRange s → MemoryCanonical s → MatchLegal s (lh.toNat + 2) offset →
      ∃ t, exec (.mainMatchAlgn slot lh) s = .next t ∧
        MatchLeaves
          { s.skip (extraBits slot.toNat) with dec := { s.dec with r0 := offset, r1 := s.dec.r0, r2 := s.dec.r1 } }
          (lh.toNat + 2) offset t)

/-- R203 with R204 to R210: a length footer f gives the length 7 + f + 2, and the pending slot's offset step follows as
for a match without a footer. POSITION_BASE is the recurrence of R87 (log 24). -/
def Obligations.LengthFooterFinishesMatch : Prop :=
  ∀ (s : State) (slot : BitVec 6) (f : BitVec 8), s.phase = .footer slot → WindowInRange s → MemoryCanonical s →
    (slot = 0 → MatchLegal s (7 + f.toNat + 2) s.dec.r0 →
      ∃ t, exec (.lenFooter f) s = .next t ∧ MatchLeaves s (7 + f.toNat + 2) s.dec.r0 t) ∧
    (slot = 1 → MatchLegal s (7 + f.toNat + 2) s.dec.r1 →
      ∃ t, exec (.lenFooter f) s = .next t ∧
        MatchLeaves { s with dec := { s.dec with r0 := s.dec.r1, r1 := s.dec.r0 } } (7 + f.toNat + 2) s.dec.r1 t) ∧
    (slot = 2 → MatchLegal s (7 + f.toNat + 2) s.dec.r2 →
      ∃ t, exec (.lenFooter f) s = .next t ∧
        MatchLeaves { s with dec := { s.dec with r0 := s.dec.r2, r2 := s.dec.r0 } } (7 + f.toNat + 2) s.dec.r2 t) ∧
    (slot = 3 → MatchLegal s (7 + f.toNat + 2) 1 →
      ∃ t, exec (.lenFooter f) s = .next t ∧
        MatchLeaves { s with dec := { s.dec with r0 := 1, r1 := s.dec.r0, r2 := s.dec.r1 } } (7 + f.toNat + 2) 1 t) ∧
    (∀ offset : Word, 4 ≤ slot.toNat → (s.dec.blockType = 1 ∨ s.dec.blockType = 2 ∧ extraBits slot.toNat < 3) →
      s.canRead (extraBits slot.toNat) = true →
      offset.toNat = positionBase slot.toNat - 2 + (s.field 0 (extraBits slot.toNat)).toNat →
      MatchLegal s (7 + f.toNat + 2) offset →
      ∃ t, exec (.lenFooter f) s = .next t ∧
        MatchLeaves
          { s.skip (extraBits slot.toNat) with dec := { s.dec with r0 := offset, r1 := s.dec.r0, r2 := s.dec.r1 } }
          (7 + f.toNat + 2) offset t) ∧
    (4 ≤ slot.toNat → s.dec.blockType = 2 → 3 ≤ extraBits slot.toNat → s.canRead (extraBits slot.toNat - 3) = true →
      exec (.lenFooter f) s =
        .next { s.skip (extraBits slot.toNat - 3) with
          phase := .alignedSym (7 + f.toNat + 2)
            (positionBase slot.toNat - 2 + 8 * (s.field 0 (extraBits slot.toNat - 3)).toNat) })

/-- R211 with R210, R215: the aligned symbol a is the low part of the offset; the offset is inserted at R0 and the match
copies. -/
def Obligations.AlignedSymbolFinishesMatch : Prop :=
  ∀ (s : State) (length base : Nat) (a : BitVec 3) (offset : Word), s.phase = .alignedSym length base →
    offset.toNat = base + a.toNat → WindowInRange s → MemoryCanonical s → MatchLegal s length offset →
    ∃ t, exec (.alnSym a) s = .next t ∧
      MatchLeaves { s with dec := { s.dec with r0 := offset, r1 := s.dec.r0, r2 := s.dec.r1 } } length offset t

/-- R213, R214 in their order (`MatchFails`): the window's end, the run's end, offset 0, an offset above WS, and under
WINDOW_INIT = Unspecified an offset above `written` (an error like the others, log 23). In every form of a match (each
slot with lh < 7, a length footer, an aligned symbol) the check that fails raises its error after the offset step (R216):
the bits of the offset are read and R0 to R2 updated (R157), and nothing else is changed. -/
def Obligations.MatchChecksComeInOrder : Prop :=
  (∀ (s u : State) (slot : BitVec 6) (offset : Word) (length : Nat) (e : Err),
    TakesOffset s slot.toNat offset u → MatchFails s length offset e →
    (∀ lh i, s.phase = .runLoop → 0 < s.run → lh ≠ 7 → length = lh.toNat + 2 → MatchElement s slot lh i →
      TakesError (exec i s) u e u.cur.position) ∧
    (∀ f : BitVec 8, s.phase = .footer slot → length = 7 + f.toNat + 2 →
      TakesError (exec (.lenFooter f) s) u e u.cur.position)) ∧
  (∀ (s : State) (length base : Nat) (a : BitVec 3) (offset : Word) (e : Err), s.phase = .alignedSym length base →
    offset.toNat = base + a.toNat → MatchFails s length offset e →
    TakesError (exec (.alnSym a) s) (s.inserted offset) e s.cur.position)

/-- R171: UNC.PAD reads one raw byte, ignores it, and starts a new bit segment after it; the block header follows. A
chunk that ends before the byte raises TruncatedInput (R107) at 8 * in_pos and changes nothing else. -/
def Obligations.PadByteRestartsSegment : Prop :=
  ∀ s : State, s.phase = .uncPad →
    (s.canReadRaw 1 = true →
      exec .uncPad s =
        .next { s with
          cur :=
            { mode := .bit
              segBase := BitVec.ofNat 32 (s.cur.inPos.toNat + 1)
              c := 0
              inPos := BitVec.ofNat 32 (s.cur.inPos.toNat + 1) }
          phase := .blockHdr }) ∧
    (s.chunk.length ≤ s.cur.inPos.toNat → TakesError (exec .uncPad s) s .truncatedInput (8 * s.cur.inPos.toNat))

/-- R180 with R108: UNC.HDR reads R0, R1, R2 as little-endian 32-bit values from the next 12 raw bytes. Where the chunk
ends before the third is read, the first two keep their new values, R2 its old one, and TruncatedInput is raised. The
cursor's mode stays (R27). -/
def Obligations.UncompressedHeaderLoadsOffsets : Prop :=
  ∀ s : State, s.phase = .uncHdr →
    (s.canReadRaw 12 = true →
      ∃ t, exec .uncHdr s = .next t ∧
        (∀ k, k < 3 →
          (if k = 0 then t.dec.r0 else if k = 1 then t.dec.r1 else t.dec.r2).toNat =
            (s.rawByte (4 * k)).toNat + 256 * (s.rawByte (4 * k + 1)).toNat +
              65536 * (s.rawByte (4 * k + 2)).toNat + 16777216 * (s.rawByte (4 * k + 3)).toNat) ∧
        t = { s with
          cur := { s.cur with inPos := BitVec.ofNat 32 (s.cur.inPos.toNat + 12) }
          dec := { s.dec with r0 := t.dec.r0, r1 := t.dec.r1, r2 := t.dec.r2 }
          phase := .mainLoop }) ∧
    (ChunkFits s → s.canReadRaw 8 = true → s.chunk.length < s.cur.inPos.toNat + 12 →
      ∃ t, exec .uncHdr s = .next t ∧ t.stat.status = .faulted ∧ t.stat.errCode = 5 ∧
        t.dec = { s.dec with r0 := s.rawWord 0, r1 := s.rawWord 4 })

/-- R220: UNC.BYTE copies the next raw byte to the window at `window_pos`; `window_pos`, `written`, the raw position and
the run move by one; R0 to R2 and every other byte are unchanged. A chunk that ends before the byte raises TruncatedInput
and writes nothing. The cursor's mode stays (R27); err_pos past 2^32 is free (log 12). -/
def Obligations.RawByteIsCopied : Prop :=
  ∀ s : State, s.phase = .runLoop → 0 < s.run → s.dec.blockType = 3 →
    (s.canReadRaw 1 = true → s.dec.windowPos.toNat < windowSize s.dec.wb → MemoryCanonical s →
      ∃ t, exec .uncByte s = .next t ∧
        t.windowByte s.dec.windowPos.toNat = some (s.rawByte 0) ∧
        (∀ a, a ≠ s.dec.windowPos.toNat → t.windowByte a = s.windowByte a) ∧
        t = { s with
          cur := { s.cur with inPos := BitVec.ofNat 32 (s.cur.inPos.toNat + 1) }
          run := s.run - 1
          dec :=
            { s.dec with
              window := t.dec.window
              windowPos := s.dec.windowPos + 1
              written := min (s.dec.written + 1) (windowSize s.dec.wb) } }) ∧
    (s.chunk.length ≤ s.cur.inPos.toNat →
      ∃ t, exec .uncByte s = .next t ∧ t.stat.status = .faulted ∧ t.stat.errCode = 5 ∧ t.dec = s.dec ∧
        t.stat.errPos = narrow (8 * s.cur.inPos.toNat))

/-! ## Frame headers -/

/-- R233 to R236: FRM.STD takes 2 bytes (block_size = h0 * 256 + h1, frame_size 32768), FRM.EXPLICIT 5 bytes (frame_size,
then block_size, big-endian). A zero size ends the payload; a header or a chunk past the payload raises TruncatedInput at
8 * pos (free past 2^32, log 12); else the frame's DECOMPRESS starts on exactly block_size bytes. -/
def Obligations.FrameHeaderStartsFrame : Prop :=
  ∀ (s : State) (q : SeqRegs) (i : Instr) (n frameSize blockSize : Nat), s.phase = .frameHdr → s.seq = some q →
    ((∃ h0, i = .frmStd h0 ∧ n = 2 ∧ frameSize = 32768 ∧
        blockSize = h0.toNat * 256 + (q.payload.getD (q.pos + 1) 0).toNat) ∨
      (i = .frmExplicit ∧ n = 5 ∧
        frameSize = (q.payload.getD (q.pos + 1) 0).toNat * 256 + (q.payload.getD (q.pos + 2) 0).toNat ∧
        blockSize = (q.payload.getD (q.pos + 3) 0).toNat * 256 + (q.payload.getD (q.pos + 4) 0).toNat)) →
    (q.payload.length < q.pos + n →
      ∃ t, exec i s = .next t ∧ t.stat.status = .faulted ∧ t.stat.errCode = 5 ∧
        t.stat.errPos = narrow (8 * q.pos) ∧ t.dec = s.dec) ∧
    (q.pos + n ≤ q.payload.length → (blockSize = 0 ∨ frameSize = 0) →
      exec i s = .next { s with seq := some { q with pos := q.pos + n }, phase := .seqFinish }) ∧
    (q.pos + n ≤ q.payload.length → 0 < blockSize → 0 < frameSize → q.payload.length < q.pos + n + blockSize →
      ∃ t, exec i s = .next t ∧ t.stat.status = .faulted ∧ t.stat.errCode = 5 ∧
        t.stat.errPos = narrow (8 * (q.pos + n)) ∧ t.dec = s.dec) ∧
    (0 < blockSize → 0 < frameSize → q.pos + n + blockSize ≤ q.payload.length →
      ∃ t, exec i s = .next t ∧ t.chunk.length = blockSize ∧
        (∀ k, k < blockSize → t.chunk[k]? = q.payload[q.pos + n + k]?) ∧ t.outLen.toNat = frameSize ∧
        t = { s with
          seq := some { q with pos := q.pos + n }
          chunk := t.chunk, outLen := t.outLen, togo := t.outLen
          cur := { mode := .bit, segBase := 0, c := 0, inPos := 0 }
          phase := if s.dec.headerRead = true then .mainLoop else .streamHdr })

/-! ## Frames: what an instruction leaves unchanged -/

/-- The commands other than INIT and the frame headers write no register, no status bit but on an error, no length, no
table and no byte of the window; INIT keeps the parameters, the host's commands and what is left of the last command.
That INIT keeps the per-command elements (cur, chunk, outLen, togo, run, out, seq), which R40 lists as not there, is the
model's choice (log 14), no rule of the spec. -/
def Obligations.CommandsLeaveDecoderAlone : Prop :=
  (∀ (s t : State) (i : Instr),
    ((∃ n bs, i = .decompress n bs) ∨ (∃ n bs, i = .seqRun n bs) ∨ (∃ id, i = .readState id) ∨
      (∃ w, i = .cmdReserved w) ∨ (∃ h0, i = .frmStd h0) ∨ i = .frmExplicit) →
    exec i s = .next t →
    t.dec = s.dec ∧ t.params = s.params ∧ t.run = s.run ∧ t.out = s.out ∧ t.pending = s.pending ∧ t.draws = s.draws ∧
      (t.stat = s.stat ∨ t.stat.status = .faulted) ∧ ∀ a, t.windowByte a = s.windowByte a) ∧
  (∀ (s t : State) (wb : BitVec 8), exec (.init wb) s = .next t →
    t.params = s.params ∧ t.pending = s.pending ∧ t.cur = s.cur ∧ t.chunk = s.chunk ∧ t.outLen = s.outLen ∧
      t.togo = s.togo ∧ t.run = s.run ∧ t.out = s.out ∧ t.seq = s.seq)

/-- The stream header writes `e8_filesize` and `header_read`, a block header `block_type`, `block_length`,
`block_remaining` and `e8_started`: R0 to R2, the window, the length arrays, the tables and everything else are
unchanged; the status and the replies change only on an error. -/
def Obligations.HeadersLeaveTheRestAlone : Prop :=
  (∀ (s t : State) (i : Instr), (i = .hdrNoE8 ∨ i = .hdrE8) → exec i s = .next t →
    (t = { s with
      cur := t.cur, phase := t.phase, stat := t.stat, replies := t.replies
      dec := { s.dec with e8FileSize := t.dec.e8FileSize, headerRead := t.dec.headerRead } }) ∧
    (t.stat = s.stat ∧ t.replies = s.replies ∨ t.stat.status = .faulted) ∧ ∀ a, t.windowByte a = s.windowByte a) ∧
  (∀ (s t : State) (i : Instr),
    (i = .blkVerbatim ∨ i = .blkAligned ∨ i = .blkUncompressed ∨ i = .blkInvalid0 ∨ ∃ ty, i = .blkInvalid4to7 ty) →
    exec i s = .next t →
    (t = { s with
      cur := t.cur, phase := t.phase, stat := t.stat, replies := t.replies
      dec :=
        { s.dec with
          blockType := t.dec.blockType, blockLength := t.dec.blockLength, blockRemaining := t.dec.blockRemaining
          e8Started := t.dec.e8Started } }) ∧
    (i ≠ .blkUncompressed → t.dec.e8Started = s.dec.e8Started) ∧
    (t.stat = s.stat ∧ t.replies = s.replies ∨ t.stat.status = .faulted) ∧ ∀ a, t.windowByte a = s.windowByte a)

/-- ALN.LENS writes the aligned lengths and table, PRE.LENS the pre-tree lengths and table, a pre-tree element the array of
its record, from its index on and at most 51 entries: every other element, every other length and every byte of the
window are unchanged; the status and the replies change only on an error. -/
def Obligations.TreeElementsLeaveTheRestAlone : Prop :=
  (∀ s t : State, exec .alnLens s = .next t →
    (t = { s with
      cur := t.cur, phase := t.phase, stat := t.stat, replies := t.replies
      dec := { s.dec with alignedLen := t.dec.alignedLen, alignedTable := t.dec.alignedTable } }) ∧
    (t.stat = s.stat ∧ t.replies = s.replies ∨ t.stat.status = .faulted) ∧ ∀ a, t.windowByte a = s.windowByte a) ∧
  (∀ s t : State, exec .preLens s = .next t →
    (t = { s with
      cur := t.cur, phase := t.phase, stat := t.stat, replies := t.replies
      dec := { s.dec with preLen := t.dec.preLen, preTable := t.dec.preTable } }) ∧
    (t.stat = s.stat ∧ t.replies = s.replies ∨ t.stat.status = .faulted) ∧ ∀ a, t.windowByte a = s.windowByte a) ∧
  (∀ (s t : State) (r : Record) (x : Nat) (i : Instr), s.phase = .record r x →
    ((∃ z, i = .preDelta z) ∨ i = .preZrun4 ∨ i = .preZrun20 ∨ i = .preSame) → exec i s = .next t →
    (t = { s with
      cur := t.cur, phase := t.phase, stat := t.stat, replies := t.replies
      dec := { s.dec with mainLen := t.dec.mainLen, lengthLen := t.dec.lengthLen } }) ∧
    (r = .length → t.dec.mainLen = s.dec.mainLen) ∧ (r ≠ .length → t.dec.lengthLen = s.dec.lengthLen) ∧
    (MemoryCanonical s → ∀ y, y < x ∨ x + 51 ≤ y → lenAt (t.recordLens r) y = lenAt (s.recordLens r) y) ∧
    (t.stat = s.stat ∧ t.replies = s.replies ∨ t.stat.status = .faulted) ∧ ∀ a, t.windowByte a = s.windowByte a)

/-- A literal or a match writes R0 to R2 (a literal and slot 0 not even those), the window bytes from `window_pos` on that
it stores, `window_pos`, `written` and the run: every other element and every other byte is unchanged; the status and
the replies change only on an error. -/
def Obligations.MainElementsLeaveTheRestAlone : Prop :=
  ∀ (s t : State) (i : Instr),
    ((∃ b, i = .mainLit b) ∨ (∃ lh, i = .mainMatchR0 lh) ∨ (∃ lh, i = .mainMatchR1 lh) ∨ (∃ lh, i = .mainMatchR2 lh) ∨
      (∃ lh, i = .mainMatchOne lh) ∨ (∃ slot lh, i = .mainMatchVerb slot lh) ∨
      (∃ slot lh, i = .mainMatchAlgn slot lh) ∨ (∃ f, i = .lenFooter f) ∨ (∃ a, i = .alnSym a)) →
    s.dec.wb.toNat ≤ 21 → exec i s = .next t →
    (t = { s with
      cur := t.cur, run := t.run, phase := t.phase, stat := t.stat, replies := t.replies
      dec :=
        { s.dec with
          r0 := t.dec.r0, r1 := t.dec.r1, r2 := t.dec.r2
          window := t.dec.window, windowPos := t.dec.windowPos, written := t.dec.written } }) ∧
    (((∃ b, i = .mainLit b) ∨ ∃ lh, i = .mainMatchR0 lh) →
      t.dec.r0 = s.dec.r0 ∧ t.dec.r1 = s.dec.r1 ∧ t.dec.r2 = s.dec.r2 ∧ t.cur = s.cur) ∧
    (t.stat = s.stat ∧ t.replies = s.replies ∨ t.stat.status = .faulted) ∧
    ∀ a, a < s.dec.windowPos.toNat ∨ s.dec.windowPos.toNat + storedBytes s i ≤ a → t.windowByte a = s.windowByte a

/-- UNC.PAD writes the cursor only; UNC.HDR R0 to R2; UNC.BYTE the window byte at `window_pos`, `window_pos`, `written` and
the run: every other element and every other byte is unchanged; the status and the replies change only on an error. -/
def Obligations.RawElementsLeaveTheRestAlone : Prop :=
  (∀ s t : State, exec .uncPad s = .next t →
    t = { s with cur := t.cur, phase := t.phase, stat := t.stat, replies := t.replies } ∧
    (t.stat = s.stat ∧ t.replies = s.replies ∨ t.stat.status = .faulted) ∧ ∀ a, t.windowByte a = s.windowByte a) ∧
  (∀ s t : State, exec .uncHdr s = .next t →
    (t = { s with
      cur := t.cur, phase := t.phase, stat := t.stat, replies := t.replies
      dec := { s.dec with r0 := t.dec.r0, r1 := t.dec.r1, r2 := t.dec.r2 } }) ∧
    (t.stat = s.stat ∧ t.replies = s.replies ∨ t.stat.status = .faulted) ∧ ∀ a, t.windowByte a = s.windowByte a) ∧
  (∀ s t : State, exec .uncByte s = .next t →
    (t = { s with
      cur := t.cur, run := t.run, phase := t.phase, stat := t.stat, replies := t.replies
      dec :=
        { s.dec with window := t.dec.window, windowPos := t.dec.windowPos, written := t.dec.written } }) ∧
    (t.stat = s.stat ∧ t.replies = s.replies ∨ t.stat.status = .faulted) ∧
    ∀ a, a ≠ s.dec.windowPos.toNat → t.windowByte a = s.windowByte a)

/-! ## The rules between elements -/

/-- R143 with R171: at the loop tests, `togo` = 0 ends the block loop; else `block_remaining` = 0 begins a block header,
after an UNCOMPRESSED block of odd length with the pad byte, after one of even length with a new bit segment at the raw
position (the split is the model's, log 22). -/
def Obligations.MainLoopChoosesNext : Prop :=
  ∀ s : State, s.phase = .mainLoop →
    (s.togo = 0 → step s = .next { s with phase := .frameOutput }) ∧
    (s.togo ≠ 0 → s.dec.blockRemaining = 0 →
      (s.dec.blockType ≠ 3 → step s = .next { s with phase := .blockHdr }) ∧
      (s.dec.blockType = 3 → s.dec.blockLength.toNat % 2 = 1 → step s = .next { s with phase := .uncPad }) ∧
      (s.dec.blockType = 3 → s.dec.blockLength.toNat % 2 = 0 →
        step s =
          .next { s with
            cur := { mode := .bit, segBase := s.cur.inPos, c := 0, inPos := s.cur.inPos }
            phase := .blockHdr }))

/-- R144: a run is min(block_remaining, togo) bytes; both are reduced by it and `window_pos` is reduced modulo WS before
anything else; a run that would cross the window's end raises WindowOverrun with sub-cause 1 with those values in place;
a run with no byte left returns to MainLoop. -/
def Obligations.RunStartsOrOverruns : Prop :=
  (∀ (s u : State) (run : Nat), s.phase = .mainLoop → s.togo ≠ 0 → s.dec.blockRemaining ≠ 0 → s.dec.wb.toNat ≤ 21 →
    run = min s.dec.blockRemaining.toNat s.togo.toNat →
    u = { s with
      run := run
      togo := BitVec.ofNat 32 (s.togo.toNat - run)
      dec :=
        { s.dec with
          blockRemaining := BitVec.ofNat 24 (s.dec.blockRemaining.toNat - run)
          windowPos := BitVec.ofNat 22 (s.dec.windowPos.toNat % windowSize s.dec.wb) } } →
    (s.dec.windowPos.toNat % windowSize s.dec.wb + run ≤ windowSize s.dec.wb →
      step s = .next { u with phase := .runLoop }) ∧
    (windowSize s.dec.wb < s.dec.windowPos.toNat % windowSize s.dec.wb + run →
      ∃ t, step s = .next t ∧ t.stat.status = .faulted ∧ t.stat.errCode = 4 ∧ t.stat.errSub = 1 ∧
        t = { u with
          stat := t.stat, phase := .idle, replies := s.replies ++ [{ status := 4, data := .none }] })) ∧
  (∀ s : State, s.phase = .runLoop → s.run = 0 → step s = .next { s with phase := .mainLoop })

/-- R175 to R178: after the first main record the second; after it the main tree is built over 656 symbols and
`e8_started` set if literal 0xE8 has a code; then the length record; after it the length tree is built over 250 symbols.
A bad set of lengths raises MalformedHuffmanTable and that table is as before (log 15). -/
def Obligations.RecordEndBuildsTrees : Prop :=
  ∀ (s : State) (r : Record) (x : Nat), s.phase = .record r x → r.last s.dec.wb ≤ x →
    (r = .main1 → step s = .next { s with phase := .preLens .main2 }) ∧
    (∀ table, r = .main2 → buildTable (codeLens s.dec.mainLen 656) = .ok table →
      step s =
        .next { s with
          dec := { s.dec with mainTable := table, e8Started := s.dec.e8Started || decide (lenAt s.dec.mainLen 0xE8 ≠ 0) }
          phase := .preLens .length }) ∧
    (∀ table, r = .length → buildTable (codeLens s.dec.lengthLen 250) = .ok table →
      step s = .next { s with dec := { s.dec with lengthTable := table }, phase := .mainLoop }) ∧
    (∀ cause, (r = .main2 ∧ buildTable (codeLens s.dec.mainLen 656) = .error cause ∨
        r = .length ∧ buildTable (codeLens s.dec.lengthLen 250) = .error cause) →
      ∃ t, step s = .next t ∧ t.stat.status = .faulted ∧ t.stat.errCode = 2 ∧
        t.stat.errSub = errSub (.malformedHuffmanTable cause) ∧ t.dec = s.dec)

/-- R146: the output is the `out_len` window bytes before `window_pos` (before WS where `window_pos` is 0), in order; if
there are not that many the command faults with WindowOverrun, sub-cause 5, at the cursor (R35). -/
def Obligations.FrameOutputIsWindowTail : Prop :=
  ∀ (s : State) (stop : Nat), s.phase = .frameOutput →
    stop = (if s.dec.windowPos = 0 then windowSize s.dec.wb else s.dec.windowPos.toNat) →
    (s.outLen.toNat ≤ stop → stop ≤ windowSize s.dec.wb →
      (∀ k, stop - s.outLen.toNat ≤ k → k < stop → (s.windowByte k).isSome = true) →
      ∃ out, step s = .next { s with out := out, phase := .e8Pass } ∧ out.length = s.outLen.toNat ∧
        ∀ k, k < s.outLen.toNat → out[k]? = s.windowByte (stop - s.outLen.toNat + k)) ∧
    (stop < s.outLen.toNat →
      TakesError (step s) s (.windowOverrun .notContiguous)
        (if s.cur.mode = .bit then 8 * s.cur.segBase.toNat + s.cur.c.toNat else 8 * s.cur.inPos.toNat))

/-- R149 to R151: the E8 pass runs only while fewer than 32768 frames were read and the file size is not 0; a frame of at
most 6 bytes, or one before `e8_started`, is only counted; else it is translated, or under E8_MODE = Reject raises
E8Unsupported at the cursor (R35); `e8_curpos` advances by `out_len` modulo 2^32; the window is never written. -/
def Obligations.E8PassFollowsCondition : Prop :=
  ∀ s : State, s.phase = .e8Pass →
    (32768 ≤ s.dec.framesRead.toNat ∨ s.dec.e8FileSize = 0 → step s = .next { s with phase := .deliver }) ∧
    (s.dec.framesRead.toNat < 32768 → s.dec.e8FileSize ≠ 0 →
      (s.outLen.toNat ≤ 6 ∨ s.dec.e8Started = false →
        step s =
          .next { s with dec := { s.dec with e8CurPos := s.dec.e8CurPos + s.outLen }, phase := .deliver }) ∧
      (6 < s.outLen.toNat → s.dec.e8Started = true → s.params.e8Mode = .translate →
        step s =
          .next { s with
            out := e8Translate s.dec.e8CurPos s.dec.e8FileSize s.out
            dec := { s.dec with e8CurPos := s.dec.e8CurPos + s.outLen }
            phase := .deliver }) ∧
      (6 < s.outLen.toNat → s.dec.e8Started = true → s.params.e8Mode = .reject →
        TakesError (step s) s .e8Unsupported
          (if s.cur.mode = .bit then 8 * s.cur.segBase.toNat + s.cur.c.toNat else 8 * s.cur.inPos.toNat)))

/-- R150. One turn of its loop at index i with i < out_len - 10: at a byte other than 0xE8, i and cur move on by 1; at an
0xE8 byte they move on by 5, and an operand a (four bytes, little-endian, signed) with -cur <= a < fs is replaced by the
four bytes of u32(a - cur), or of u32(a + fs) for a negative a, while any other operand, and every other byte, stays; from
out_len - 10 on nothing changes. The translation is that loop from index 0 at e8_curpos: it keeps the length, leaves a
chunk of at most 10 bytes, a chunk without an 0xE8 byte, and the last 6 bytes of any chunk as they are, and more turns
than the chunk has bytes change nothing. -/
def Obligations.E8TranslationBounds : Prop :=
  (∀ (fs cur : Int) (fuel i : Nat) (out : List Byte),
    (out.length ≤ i + 10 → e8Loop fs fuel i cur out = out) ∧
    (∀ b, i + 10 < out.length → out[i]? = some b → b ≠ 0xE8 →
      e8Loop fs (fuel + 1) i cur out = e8Loop fs fuel (i + 1) (cur + 1) out) ∧
    (∀ (b0 b1 b2 b3 : Byte) (n : Nat) (a : Int), i + 10 < out.length → out[i]? = some 0xE8 →
      out[i + 1]? = some b0 → out[i + 2]? = some b1 → out[i + 3]? = some b2 → out[i + 4]? = some b3 →
      n = b0.toNat + 256 * b1.toNat + 65536 * b2.toNat + 16777216 * b3.toNat →
      a = (if n < 2 ^ 31 then (n : Int) else (n : Int) - 2 ^ 32) →
      (¬ (-cur ≤ a ∧ a < fs) → e8Loop fs (fuel + 1) i cur out = e8Loop fs fuel (i + 5) (cur + 5) out) ∧
      (-cur ≤ a → a < fs →
        ∃ (c0 c1 c2 c3 : Byte) (out' : List Byte),
          ((c0.toNat + 256 * c1.toNat + 65536 * c2.toNat + 16777216 * c3.toNat : Nat) : Int) =
            (if 0 ≤ a then a - cur else a + fs) % 2 ^ 32 ∧
          out'.length = out.length ∧
          (∀ k, out'[k]? =
            if k = i + 1 then some c0 else if k = i + 2 then some c1 else if k = i + 3 then some c2
            else if k = i + 4 then some c3 else out[k]?) ∧
          e8Loop fs (fuel + 1) i cur out = e8Loop fs fuel (i + 5) (cur + 5) out'))) ∧
  ∀ (cur fs : Word) (out : List Byte),
    (e8Translate cur fs out).length = out.length ∧
    (out.length ≤ 10 → e8Translate cur fs out = out) ∧
    ((∀ b ∈ out, b ≠ 0xE8) → e8Translate cur fs out = out) ∧
    (∀ k, out.length ≤ k + 6 → (e8Translate cur fs out)[k]? = out[k]?) ∧
    (∀ extra, e8Loop fs.toInt (out.length + extra) 0 cur.toNat out = e8Translate cur fs out)

/-- R152, R148, R232, R238: at the end of a frame `frames_read` is one more, up to 32768; alone, a DECOMPRESS then returns
OK and its output; inside SEQ_RUN the output is appended to OUT and `pos` moves by the chunk's length, whatever was
consumed. -/
def Obligations.FrameIsCountedAndDelivered : Prop :=
  ∀ s : State, s.phase = .deliver →
    (s.seq = none →
      step s =
        .next { s with
          dec := { s.dec with framesRead := BitVec.ofNat 16 (min (s.dec.framesRead.toNat + 1) 32768) }
          phase := .idle
          replies := s.replies ++ [{ status := 0, data := .output s.out }] }) ∧
    (∀ q, s.seq = some q →
      step s =
        .next { s with
          dec := { s.dec with framesRead := BitVec.ofNat 16 (min (s.dec.framesRead.toNat + 1) 32768) }
          phase := .seqLoop
          seq := some { q with out := q.out ++ s.out, pos := q.pos + s.chunk.length } })

/-- R232, R237: SEQ_RUN reads a frame header while `pos` is below the payload's length; at its end the length of OUT must
be `decompressed_len`, else SizeMismatch at 8 * pos (free past 2^32, log 12); if it is, OK and OUT are returned. -/
def Obligations.SequencerLoopAndTotal : Prop :=
  ∀ (s : State) (q : SeqRegs), s.seq = some q →
    (s.phase = .seqLoop →
      step s = .next { s with phase := if q.pos < q.payload.length then .frameHdr else .seqFinish }) ∧
    (s.phase = .seqFinish →
      (q.out.length = q.decompressedLen.toNat →
        step s =
          .next { s with
            seq := none, phase := .idle, replies := s.replies ++ [{ status := 0, data := .output q.out }] }) ∧
      (q.out.length ≠ q.decompressedLen.toNat →
        step s =
          .next { s with
            stat :=
              { status := .faulted, errCode := 7, errSub := 0, errPos := narrow (8 * q.pos)
                errFrame := s.dec.framesRead }
            phase := .idle
            replies := s.replies ++ [{ status := 7, data := .none }] }))

/-! ## Errors and commands as a whole -/

/-- R257: a raise inside an operation sets FAULTED, the code and sub-cause, the position it names or else the cursor's
(8 * seg_base + C in bit mode, 8 * in_pos in raw mode), and `frames_read`; the code is the command's result, with no
output; everything else keeps what was written before the raise. A position past 2^32 is free (log 12). R250, R251: the
code and the sub-cause of every error. -/
def Obligations.RaiseRecordsAndAborts : Prop :=
  (errCode .unsupportedWindowSize = 1 ∧ (∀ cause, errCode (.malformedHuffmanTable cause) = 2) ∧
    errCode .invalidBlockType = 3 ∧ (∀ cause, errCode (.windowOverrun cause) = 4) ∧ errCode .truncatedInput = 5 ∧
    errCode .lengthMismatch = 6 ∧ errCode .sizeMismatch = 7 ∧ errCode .e8Unsupported = 8 ∧ errCode .notReady = 9 ∧
    errCode .unwrittenWindowRead = 10 ∧ errCode .illegalCommand = 11) ∧
  (errSub (.malformedHuffmanTable .oversubscribed) = 1 ∧ errSub (.malformedHuffmanTable .incomplete) = 2 ∧
    errSub (.malformedHuffmanTable .emptyTree) = 3 ∧ errSub (.malformedHuffmanTable .badSameSymbol) = 4 ∧
    errSub (.windowOverrun .runCrosses) = 1 ∧ errSub (.windowOverrun .matchCrosses) = 2 ∧
    errSub (.windowOverrun .offsetZero) = 3 ∧ errSub (.windowOverrun .offsetBeyond) = 4 ∧
    errSub (.windowOverrun .notContiguous) = 5 ∧
    ∀ e, (∀ cause, e ≠ .malformedHuffmanTable cause) → (∀ cause, e ≠ .windowOverrun cause) → errSub e = 0) ∧
  ∀ (m : M Unit) (s u : State) (e : Err) (pos : Option Nat), m.run s = .error (.raise e pos) u →
    complete m s =
      .next { u with
        stat :=
          { status := .faulted, errCode := errCode e, errSub := errSub e
            errPos :=
              narrow (match pos with
                | some p => p
                | none =>
                  if u.cur.mode = .bit then 8 * u.cur.segBase.toNat + u.cur.c.toNat else 8 * u.cur.inPos.toNat)
            errFrame := u.dec.framesRead }
        phase := .idle
        replies := u.replies ++ [{ status := errCode e, data := .none }] }

/-- R258: FAULTED is sticky: from a state that meets the invariant, a step that does not run an INIT the host issued with
a window size of 15 to 21 keeps FAULTED; and one that runs no INIT keeps the error registers, the decoder and the window. -/
def Obligations.FaultedIsSticky : Prop :=
  ∀ s t : State, s.Inv → s.stat.status = .faulted → step s = .next t →
    ((∀ c rest wb, s.pending = c :: rest → decode (.cmd c s.draws) = .ok (.init wb) → wb.toNat < 15 ∨ 21 < wb.toNat) →
      t.stat.status = .faulted) ∧
    ((∀ c rest wb, s.pending = c :: rest → decode (.cmd c s.draws) ≠ .ok (.init wb)) →
      t.stat = s.stat ∧ t.dec = s.dec ∧ t.phase = .idle)

/-- R140, R58: commands are atomic for the host: while one is in progress none of its others is taken and nothing is
returned until the step that ends it, which returns one result; a result other than OK carries no data. -/
def Obligations.CommandsAreAtomic : Prop :=
  ∀ s t : State, step s = .next t →
    (s.phase ≠ .idle → t.pending = s.pending) ∧
    (t.phase ≠ .idle → t.replies = s.replies) ∧
    (s.phase ≠ .idle → t.phase = .idle → ∃ r, t.replies = s.replies ++ [r] ∧ (r.status ≠ 0 → r.data = .none))

/-! ## Bit reader -/

/-- R103 to R105: ReadBits returns the next n bits, first bit most significant, and moves C by n; if one of them lies in a
phantom byte it raises TruncatedInput at the first that does and C stays; under PHANTOM_FETCH = Fault it raises at the
cursor as soon as a word it fetches has a phantom byte. No draw of phantom bytes changes any of it (log 11). C past 2^32
is free (log 12). -/
def Obligations.ReadBitsAnswersOrTruncates : Prop :=
  ∀ (s : State) (n : Nat) (draw : Nat → Byte),
    (s.params.phantomFetch = .fault →
      fetchesReal s.chunk.length s.cur.segBase.toNat s.cur.c.toNat n = false →
      (readBitsWith draw n).run s =
        .error (.raise .truncatedInput (some (8 * s.cur.segBase.toNat + s.cur.c.toNat))) s) ∧
    ((s.params.phantomFetch = .draw ∨
        fetchesReal s.chunk.length s.cur.segBase.toNat s.cur.c.toNat n = true) →
      ((∀ k, k < n → byteOf s.cur.segBase.toNat (s.cur.c.toNat + k) < s.chunk.length) →
        (readBitsWith draw n).run s =
          .ok (s.field 0 n) { s with cur := { s.cur with c := narrow (s.cur.c.toNat + n) } } ∧
        ∀ k, k < n → (s.field 0 n).getMsbD k = segBit s.chunk draw s.cur.segBase.toNat (s.cur.c.toNat + k)) ∧
      (∀ p, p < n → s.chunk.length ≤ byteOf s.cur.segBase.toNat (s.cur.c.toNat + p) →
        (∀ k, k < p → byteOf s.cur.segBase.toNat (s.cur.c.toNat + k) < s.chunk.length) →
        (readBitsWith draw n).run s =
          .error (.raise .truncatedInput (some (8 * s.cur.segBase.toNat + (s.cur.c.toNat + p)))) s))

/-- R109 with R28: the accumulator form conforms. InitBits represents the start of a segment. From a reader that
represents the cursor: Ensure(n) represents it still; PeekBits(n) and ReadBits(n), n from 1 to 16 and 17, and DecodeSym
of an EMPTY or complete table answer the same value as the cursor form (and the reader left represents its cursor) or
raise the same error, TruncatedInput at the same position for a phantom bit consumed or, under PHANTOM_FETCH = Fault, a
phantom byte fetched; AlignToRaw leaves the raw position of R106 and an empty accumulator, or raises as it. Phantom bytes
read as `draw` says in both (log 11); C past 2^32 is free (log 12). -/
def Obligations.AccumulatorFormConforms : Prop :=
  ∀ (s : State) (draw : Nat → Byte) (r : AccReader),
    (accInit r).represents s draw r.inPos 0 ∧
    (r.represents s draw s.cur.segBase.toNat s.cur.c.toNat →
      (∀ n, 1 ≤ n → n ≤ 16 →
        match accPeek s draw n r with
        | .ok (v, q) => (peekBits draw n).run s = .ok v s ∧ q.represents s draw s.cur.segBase.toNat s.cur.c.toNat
        | .error stop => (peekBits draw n).run s = .error stop s) ∧
      (∀ n, 1 ≤ n → n ≤ 17 → s.cur.c.toNat + n < 2 ^ 32 →
        match accRead s draw n r with
        | .ok (v, q) =>
          (readBitsWith draw n).run s = .ok (BitVec.ofNat n v) (s.skip n) ∧ v < 2 ^ n ∧
            q.represents s draw s.cur.segBase.toNat (s.cur.c.toNat + n)
        | .error stop => (readBitsWith draw n).run s = .error stop s) ∧
      (∀ n table, TableOk n table → s.cur.c.toNat + 16 < 2 ^ 32 →
        match accDecodeSym s draw table r with
        | .ok (sym, q) =>
          ∃ len, (decodeSymPeek draw table).run s = .ok sym (s.skip len) ∧
            q.represents s draw s.cur.segBase.toNat (s.cur.c.toNat + len)
        | .error stop => (decodeSymPeek draw table).run s = .error stop s) ∧
      (match accAlign s draw r with
        | .ok q =>
          q.acc = 0 ∧ q.nbits = 0 ∧ q.inPos = s.cur.segBase.toNat + 2 * (s.cur.c.toNat / 16 + 1) ∧ q.fp = q.inPos ∧
            alignToRaw.run s = .ok () { s with cur := { s.cur with mode := .raw, inPos := narrow q.inPos, c := 0 } }
        | .error stop => alignToRaw.run s = .error stop s))

/-! ## Huffman -/

/-- R122: Build answers EMPTY when no symbol has a length, raises over-subscribed or incomplete by the Kraft sum, and
otherwise answers the canonical code. -/
def Obligations.BuildAcceptsExactlyCompleteSets : Prop :=
  ∀ lens : List (Nat × Nat),
    (buildTable lens = .ok .empty ↔ lens = []) ∧
    (lens ≠ [] →
      (2 ^ 16 < kraftSum lens → buildTable lens = .error .oversubscribed) ∧
      (kraftSum lens < 2 ^ 16 → buildTable lens = .error .incomplete) ∧
      (kraftSum lens = 2 ^ 16 → buildTable lens = .ok (.codes (canonicalCode lens))))

/-- R125 with R121: the canonical code of a complete set of lengths decodes every 16-bit pattern to exactly one code, of
1 to 16 bits and of a symbol of the alphabet. -/
def Obligations.CanonicalCodeCoversEveryPattern : Prop :=
  ∀ (n : Nat) (lens : List (Nat × Nat)), CompleteLens n lens → ∀ p, p < 2 ^ 16 →
    ∃ e ∈ canonicalCode lens,
      p / 2 ^ (16 - e.len) = e.code ∧ 1 ≤ e.len ∧ e.len ≤ 16 ∧ e.sym < n ∧ (e.sym, e.len) ∈ lens ∧
      ∀ f ∈ canonicalCode lens, p / 2 ^ (16 - f.len) = f.code → f = e

/-- R126 to R128: on an EMPTY or complete table the machine's DecodeSym, which reads bit by bit, answers, raises and moves
the cursor exactly as R126's own form, which peeks 16 bits, whatever the phantom bytes read as. -/
def Obligations.DecodeSymEqualsPeekForm : Prop :=
  ∀ (n : Nat) (table : DecodeTable) (draw : Nat → Byte) (s : State), TableOk n table →
    (decodeSym table).run s = (decodeSymPeek draw table).run s

/-! ## Encodings -/

/-- R86 to R88: slots 4 to 49 with their extra bits give every offset from 2 to 2097149, each exactly once; a slot's
offsets run from POSITION_BASE[slot] - 2 to POSITION_BASE[slot + 1] - 3; an aligned symbol is the low 3 bits of
offset + 2. EXTRA_BITS is the table of R86; POSITION_BASE is the recurrence of R87, not its printed table (log 24). -/
def Obligations.OffsetFormsCoverTheRange : Prop :=
  ((∀ slot, slot < 4 → extraBits slot = 0) ∧ (∀ slot, 4 ≤ slot → slot < 36 → extraBits slot = slot / 2 - 1) ∧
    (∀ slot, 36 ≤ slot → slot ≤ 50 → extraBits slot = 17)) ∧
  (positionBase 0 = 0 ∧ ∀ slot, positionBase (slot + 1) = positionBase slot + 2 ^ extraBits slot) ∧
  (∀ slot v, 4 ≤ slot → slot ≤ 49 → v < 2 ^ extraBits slot →
    positionBase slot - 2 ≤ verbOffset slot v ∧ verbOffset slot v + 3 ≤ positionBase (slot + 1) ∧
      2 ≤ verbOffset slot v ∧ verbOffset slot v ≤ 2097149) ∧
  (∀ offset, 2 ≤ offset → offset ≤ 2097149 →
    ∃ slot v, 4 ≤ slot ∧ slot ≤ 49 ∧ v < 2 ^ extraBits slot ∧ verbOffset slot v = offset ∧
      ∀ slot' v', 4 ≤ slot' → slot' ≤ 49 → v' < 2 ^ extraBits slot' → verbOffset slot' v' = offset →
        slot' = slot ∧ v' = v) ∧
  (∀ slot v a, 4 ≤ slot → slot ≤ 49 → 3 ≤ extraBits slot → a < 8 → (alignedBase slot v + a + 2) % 8 = a)

/-- R70 to R91: decoding an instruction's opcode word gives the instruction back, for every well-formed instruction; an
opcode word that decodes is, up to the block type its symbol was decoded in, the encoding of what it decodes to; and a
command decodes to an instruction encoded with the same command word, and if the command is a transaction of R71 by
exactly that command. -/
def Obligations.DecodeEncodeAgree : Prop :=
  (∀ i : Instr, i.wellFormed = true → decode (encode i) = .ok i) ∧
  (∀ (w : OpWord) (i : Instr), decode w = .ok i →
    i.wellFormed = true ∧
      (encode i = w ∨ (∃ bt sym, w = .main bt sym ∧ encode i = .main 1 sym) ∨
        ∃ c draw c', w = .cmd c draw ∧ encode i = .cmd c' 0 ∧ c'.word = c.word ∧ (c.wellFormed = true → c' = c)))

/-- Words written out from the encodings of R70, R74, R75, R82, R83, R91 decode to the elements they stand for. -/
def Obligations.SpecWordsDecode : Prop :=
  decode (.cmd { word := 0x00000F01, operands := [], bytes := [] } 0) = .ok (.init 15) ∧
  decode (.cmd { word := 0x00000604, operands := [], bytes := [] } 0) = .ok (.readState 6) ∧
  decode (.cmd { word := 0x00000002, operands := [3, 5], bytes := [0x12, 0x34, 0x56] } 0) =
    .ok (.decompress 5 [0x12, 0x34, 0x56]) ∧
  decode (.cmd { word := 0x00000003, operands := [2, 0], bytes := [0, 0] } 0) = .ok (.seqRun 0 [0, 0]) ∧
  decode (.cmd { word := 0x00000102, operands := [], bytes := [] } 0) = .ok (.cmdReserved 0x00000102) ∧
  decode (.hdr 1) = .ok .hdrE8 ∧ decode (.blk 3) = .ok .blkUncompressed ∧ decode (.blk 6) = .ok (.blkInvalid4to7 6) ∧
  decode (.pre 15) = .ok (.preDelta 15) ∧ decode (.pre 17) = .ok .preZrun4 ∧ decode (.pre 19) = .ok .preSame ∧
  decode (.main 1 0x41) = .ok (.mainLit 0x41) ∧ decode (.main 1 292) = .ok (.mainMatchVerb 4 4) ∧
  decode (.main 2 322) = .ok (.mainMatchAlgn 8 2) ∧ decode (.main 2 287) = .ok (.mainMatchOne 7) ∧
  decode (.frm 0xFF) = .ok .frmExplicit ∧ decode (.frm 0x12) = .ok (.frmStd 0x12)

/-- R73, R92: the grammar's state picks the next element, a step reads its opcode word with the primitive the rules name
and runs the instruction the word decodes to, from the state past the word. Where the word cannot be read the step takes
the error the primitive raises, with nothing consumed: TruncatedInput for want of bits (R104, R105) or of a frame
header's first byte (R236), MalformedHuffmanTable with sub-cause 3 for a symbol of an EMPTY table (R127). With no command
pending the block idles (log 18); a transaction that falls short of R71 uses up a free value (log 13). -/
def Obligations.StepRunsDecodedInstruction : Prop :=
  ∀ s : State,
    (s.phase = .idle → s.pending = [] → step s = .next s) ∧
    (∀ c rest i, s.phase = .idle → s.pending = c :: rest → decode (.cmd c s.draws) = .ok i →
      step s =
        exec i { s with
          pending := rest
          draws := if s.stat.status = .ready ∧ fallsShort c = true then s.draws + 1 else s.draws } ∧
      (c.wellFormed = true → fallsShort c = false)) ∧
    (∀ q h0 i, s.phase = .frameHdr → s.seq = some q → q.payload[q.pos]? = some h0 → decode (.frm h0) = .ok i →
      step s = exec i s) ∧
    (∀ i, s.phase = .streamHdr → s.canRead 1 = true → decode (.hdr (s.field 0 1)) = .ok i →
      step s = exec i (s.skip 1)) ∧
    (∀ i, s.phase = .blockHdr → s.canRead 3 = true → decode (.blk (s.field 0 3)) = .ok i → step s = exec i (s.skip 3)) ∧
    (s.phase = .alnLens → step s = exec .alnLens s) ∧ (∀ r, s.phase = .preLens r → step s = exec .preLens s) ∧
    (s.phase = .uncPad → step s = exec .uncPad s) ∧ (s.phase = .uncHdr → step s = exec .uncHdr s) ∧
    (∀ r x z t i, s.phase = .record r x → x < r.last s.dec.wb → (decodeSym s.dec.preTable).run s = .ok z t → z < 32 →
      decode (.pre (BitVec.ofNat 5 z)) = .ok i → step s = exec i t) ∧
    (∀ m t i, s.phase = .runLoop → 0 < s.run → (s.dec.blockType = 1 ∨ s.dec.blockType = 2) →
      (decodeSym s.dec.mainTable).run s = .ok m t → m < 1024 →
      decode (.main s.dec.blockType (BitVec.ofNat 10 m)) = .ok i → step s = exec i t) ∧
    (s.phase = .runLoop → 0 < s.run → s.dec.blockType = 3 → step s = exec .uncByte s) ∧
    (∀ slot f t i, s.phase = .footer slot → (decodeSym s.dec.lengthTable).run s = .ok f t → f < 256 →
      decode (.len (BitVec.ofNat 8 f)) = .ok i → step s = exec i t) ∧
    (∀ length base a t i, s.phase = .alignedSym length base → (decodeSym s.dec.alignedTable).run s = .ok a t → a < 8 →
      decode (.aln (BitVec.ofNat 3 a)) = .ok i → step s = exec i t) ∧
    (∀ q, s.phase = .frameHdr → s.seq = some q → q.payload.length ≤ q.pos →
      TakesError (step s) s .truncatedInput (8 * q.pos)) ∧
    (∀ pos, (s.phase = .streamHdr ∧ FieldTruncated s 1 pos ∨ s.phase = .blockHdr ∧ FieldTruncated s 3 pos) →
      TakesError (step s) s .truncatedInput pos) ∧
    (∀ r x, s.phase = .record r x → x < r.last s.dec.wb → StepNeedsSymbol s s.dec.preTable) ∧
    (s.phase = .runLoop → 0 < s.run → (s.dec.blockType = 1 ∨ s.dec.blockType = 2) → StepNeedsSymbol s s.dec.mainTable) ∧
    (∀ slot, s.phase = .footer slot → StepNeedsSymbol s s.dec.lengthTable) ∧
    (∀ length base, s.phase = .alignedSym length base → StepNeedsSymbol s s.dec.alignedTable)

/-! ## Invariants -/

/-- R41: at power-on the status is UNINIT and the error registers are 0. That power-on meets the invariant rests on the
values the model chose for the elements R41 leaves unspecified: 0, empty and EMPTY (log 7). -/
def Obligations.ResetMeetsInvariant : Prop :=
  State.reset.Inv ∧ State.reset.stat = { status := .uninit, errCode := 0, errSub := 0, errPos := 0, errFrame := 0 }

/-- Every step keeps the invariant: the arrays are canonical, the lengths in range (R32, R33, R186), the tables EMPTY or
complete (R44, R125), `window_pos` and `written` at most WS with every written byte there (R23, R36), a run within the
window (R144), a command only in progress while READY (R256), the chunk's length a 32-bit number (R50). -/
def Obligations.EveryStepKeepsInvariant : Prop :=
  ∀ s t : State, s.Inv → step s = .next t → t.Inv

/-- R270: from a state that meets the invariant every step answers a next state, whatever the host has issued. -/
def Obligations.RunningMachineNeverStops : Prop :=
  ∀ s : State, s.Inv → ∃ t, step s = .next t

/-- In every state, reachable or not, a step keeps the canonical form of the window and of the length arrays, and the
parameters of R4. -/
def Obligations.StepKeepsMemoryAndParameters : Prop :=
  ∀ s t : State, step s = .next t → t.params = s.params ∧ (MemoryCanonical s → MemoryCanonical t)

/-- R24: R0, R1 and R2 are written only by match elements (with their footer and aligned symbol), the UNCOMPRESSED header
and INIT: any other instruction, and any step that runs none, leaves them. -/
def Obligations.RepeatedOffsetsWrittenOnlyByMatches : Prop :=
  (∀ (s t : State) (i : Instr), exec i s = .next t →
    (∀ wb, i ≠ .init wb) → i ≠ .uncHdr →
    (∀ lh, i ≠ .mainMatchR1 lh ∧ i ≠ .mainMatchR2 lh ∧ i ≠ .mainMatchOne lh) →
    (∀ slot lh, i ≠ .mainMatchVerb slot lh ∧ i ≠ .mainMatchAlgn slot lh) →
    (∀ f, i ≠ .lenFooter f) → (∀ a, i ≠ .alnSym a) →
    t.dec.r0 = s.dec.r0 ∧ t.dec.r1 = s.dec.r1 ∧ t.dec.r2 = s.dec.r2) ∧
  (∀ s t : State, fetch s = .done (.next t) →
    t.dec.r0 = s.dec.r0 ∧ t.dec.r1 = s.dec.r1 ∧ t.dec.r2 = s.dec.r2)

/-- R41 with 93 I1, I2, I4: while the status is not READY no step shows the host the window, the length arrays, the tables
or `written`: two such states that differ in those alone answer alike. That their registers are alike after an INIT that
fails too is the model's choice (log 8): the free values it draws depend on the count of draws alone, where R41 and I2
allow any value. -/
def Obligations.UnspecifiedStateIsHidden : Prop :=
  ∀ (s s' t : State), s.phase = .idle → s.stat.status ≠ .ready →
    s' = { s with
      dec :=
        { s.dec with
          window := s'.dec.window, written := s'.dec.written
          mainLen := s'.dec.mainLen, lengthLen := s'.dec.lengthLen
          alignedLen := s'.dec.alignedLen, preLen := s'.dec.preLen
          preTable := s'.dec.preTable, mainTable := s'.dec.mainTable
          lengthTable := s'.dec.lengthTable, alignedTable := s'.dec.alignedTable } } →
    step s = .next t →
    ∃ t', step s' = .next t' ∧ t'.replies = t.replies ∧ t'.stat = t.stat ∧ t'.pending = t.pending ∧
      t'.phase = .idle ∧ (∀ id, t'.register id = t.register id) ∧ (t.stat.status = .ready → t' = t)

/-! ## The order of the canonical code -/

/-- R121 with R120: Build takes the symbols of its alphabet with a non-zero length, in index order; the canonical code
has one code for each, of its length; the codes are in order of length, then of symbol index; the first is 0 and each is
the one before plus one, shifted left by the difference in lengths. -/
def Obligations.CanonicalCodeIsInOrder : Prop :=
  (∀ (w n : Nat) (m : Cells w), cellsWf (some 0) m = true →
    (codeLens m n).Pairwise (fun a b => a.1 < b.1) ∧
    ∀ sym len, (sym, len) ∈ codeLens m n ↔ sym < n ∧ len ≠ 0 ∧ (lenAt m sym).toNat = len) ∧
  (∀ lens : List (Nat × Nat), lens.Pairwise (fun a b => a.1 < b.1) → (∀ c ∈ lens, 1 ≤ c.2 ∧ c.2 ≤ 16) →
    (∀ sym len, (sym, len) ∈ lens ↔ ∃ e ∈ canonicalCode lens, e.sym = sym ∧ e.len = len) ∧
    (canonicalCode lens).Pairwise (fun e f => e.len < f.len ∨ e.len = f.len ∧ e.sym < f.sym) ∧
    (∀ e, (canonicalCode lens)[0]? = some e → e.code = 0) ∧
    ∀ k e f, (canonicalCode lens)[k]? = some e → (canonicalCode lens)[k + 1]? = some f →
      f.code = (e.code + 1) * 2 ^ (f.len - e.len))
end

