-- ==== Sys2Proof/Laws/Monad.lean ====
section
/-! SUPPORT. How operations of `M` compose, what `complete` makes of them, and relations an operation keeps from the
state it starts in to the state it ends in. -/

namespace Sys2Proof.Machine

variable {α β : Type}

@[simp] theorem M.run_raise (e : Err) (s : State) : (raise e : M α).run s = .error (.raise e none) s := rfl
@[simp] theorem M.run_raiseAt (e : Err) (n : Nat) (s : State) :
    (raiseAt e n : M α).run s = .error (.raise e (some n)) s := rfl
@[simp] theorem M.run_outsideGrammar (s : State) :
    (outsideGrammar : M α).run s = .error (.refuse .outsideGrammar) s := rfl
@[simp] theorem M.run_goto (p : Phase) (s : State) : (goto p).run s = .ok ⟨⟩ (s.goto p) := rfl
@[simp] theorem M.run_reply (c : BitVec 4) (d : ReplyData) (s : State) :
    (reply c d).run s = .ok ⟨⟩ (s.reply { status := c, data := d }) := rfl

theorem M.bind_ok {m : M α} {f : α → M β} {s t : State} {a : α} (h : m.run s = .ok a t) :
    (m >>= f).run s = (f a).run t := by
  rw [EStateM.run_bind, h]

theorem M.bind_error {m : M α} {f : α → M β} {s t : State} {e : Stop} (h : m.run s = .error e t) :
    (m >>= f).run s = .error e t := by
  rw [EStateM.run_bind, h]

/-- An operation followed by another answers only through an answer of the first. -/
theorem M.bind_eq_ok {m : M α} {f : α → M β} {s u : State} {b : β} (h : (m >>= f).run s = .ok b u) :
    ∃ a t, m.run s = .ok a t ∧ (f a).run t = .ok b u := by
  rw [EStateM.run_bind] at h
  cases hm : m.run s with
  | ok a t => rw [hm] at h; exact ⟨a, t, rfl, h⟩
  | error e t => rw [hm] at h; cases h

/-! ### `complete` -/

theorem complete_ok {m : M Unit} {s t : State} (h : m.run s = .ok () t) : complete m s = .next t := by
  unfold complete; rw [h]

theorem complete_raise {m : M Unit} {s t : State} {e : Err} {p : Option Nat} (h : m.run s = .error (.raise e p) t) :
    complete m s = .next (t.enterFault e p) := by
  unfold complete; rw [h]

theorem complete_fault {m : M Unit} {s t : State} {f : Fault} (h : m.run s = .error (.fault f) t) :
    complete m s = .fault f := by
  unfold complete; rw [h]

theorem complete_refuse {m : M Unit} {s t : State} {r : Refusal} (h : m.run s = .error (.refuse r) t) :
    complete m s = .refused r := by
  unfold complete; rw [h]

/-- A next state comes from an answer or from an error of the spec. -/
theorem complete_eq_next {m : M Unit} {s u : State} (h : complete m s = .next u) :
    m.run s = .ok () u ∨ ∃ e p t, m.run s = .error (.raise e p) t ∧ u = t.enterFault e p := by
  unfold complete at h
  split at h
  · rename_i t hm; cases h; exact .inl hm
  · rename_i e p t hm; cases h; exact .inr ⟨e, p, t, hm, rfl⟩
  · cases h
  · cases h

/-! ### Relations an operation keeps -/

/-- The state an operation ends in. -/
def M.finalState : EStateM.Result Stop State α → State
  | .ok _ t => t
  | .error _ t => t

@[simp] theorem M.finalState_ok (a : α) (t : State) : M.finalState (.ok a t : EStateM.Result Stop State α) = t := rfl
@[simp] theorem M.finalState_error (e : Stop) (t : State) :
    M.finalState (.error e t : EStateM.Result Stop State α) = t := rfl

/-- `m` keeps `R` from where it starts to where it ends, however it ends. -/
def Keeps (R : State → State → Prop) (m : M α) : Prop := ∀ s, R s (M.finalState (m.run s))

theorem Keeps.bind {R : State → State → Prop} (tr : ∀ a b c, R a b → R b c → R a c) {m : M α} {f : α → M β}
    (hm : Keeps R m) (hf : ∀ a, Keeps R (f a)) : Keeps R (m >>= f) := by
  intro s
  have h := hm s
  rw [EStateM.run_bind]
  cases hs : m.run s with
  | ok a t => rw [hs] at h; exact tr _ _ _ h (hf a t)
  | error e t => rw [hs] at h; exact h

theorem Keeps.pure {R : State → State → Prop} (rf : ∀ a, R a a) (a : α) : Keeps R (pure a : M α) := fun s => rf s

theorem Keeps.throw {R : State → State → Prop} (rf : ∀ a, R a a) (e : Stop) : Keeps R (throw e : M α) := fun s => rf s

theorem Keeps.get {R : State → State → Prop} (rf : ∀ a, R a a) : Keeps R (get : M State) := fun s => rf s

theorem Keeps.modify {R : State → State → Prop} {f : State → State} (h : ∀ s, R s (f s)) :
    Keeps R (modify f : M PUnit) := fun s => h s

theorem Keeps.ite {R : State → State → Prop} {c : Prop} [Decidable c] {m n : M α} (hm : Keeps R m) (hn : Keeps R n) :
    Keeps R (if c then m else n) := by
  split
  · exact hm
  · exact hn

/-- A read of the state followed by an operation that may use what was read. -/
theorem Keeps.get_bind {R : State → State → Prop} {f : State → M β} (h : ∀ s, R s (M.finalState ((f s).run s))) :
    Keeps R ((MonadState.get : M State) >>= f) := fun s => h s

/-- What an operation keeps, its completion keeps, if entering FAULTED does. -/
theorem Keeps.complete {R : State → State → Prop} {m : M Unit} (hm : Keeps R m)
    (tr : ∀ a b c, R a b → R b c → R a c) (hf : ∀ s e p, R s (s.enterFault e p)) {s t : State}
    (h : complete m s = .next t) : R s t := by
  have hs := hm s
  rcases complete_eq_next h with h' | ⟨e, p, u, h', rfl⟩
  · rw [h'] at hs; exact hs
  · rw [h'] at hs; exact tr _ _ _ hs (hf u e p)

end Sys2Proof.Machine
end

