-- ==== Sys2Proof/Laws/State.lean ====
section
/-! SUPPORT. One lemma per field per update of the state, true by definition. -/

namespace Sys2Proof.Machine

variable (s : State)

@[simp] theorem State.goto_params (p : Phase) : (s.goto p).params = s.params := rfl
@[simp] theorem State.goto_stat (p : Phase) : (s.goto p).stat = s.stat := rfl
@[simp] theorem State.goto_dec (p : Phase) : (s.goto p).dec = s.dec := rfl
@[simp] theorem State.goto_cur (p : Phase) : (s.goto p).cur = s.cur := rfl
@[simp] theorem State.goto_chunk (p : Phase) : (s.goto p).chunk = s.chunk := rfl
@[simp] theorem State.goto_outLen (p : Phase) : (s.goto p).outLen = s.outLen := rfl
@[simp] theorem State.goto_togo (p : Phase) : (s.goto p).togo = s.togo := rfl
@[simp] theorem State.goto_run (p : Phase) : (s.goto p).run = s.run := rfl
@[simp] theorem State.goto_out (p : Phase) : (s.goto p).out = s.out := rfl
@[simp] theorem State.goto_seq (p : Phase) : (s.goto p).seq = s.seq := rfl
@[simp] theorem State.goto_phase (p : Phase) : (s.goto p).phase = p := rfl
@[simp] theorem State.goto_pending (p : Phase) : (s.goto p).pending = s.pending := rfl
@[simp] theorem State.goto_replies (p : Phase) : (s.goto p).replies = s.replies := rfl
@[simp] theorem State.goto_draws (p : Phase) : (s.goto p).draws = s.draws := rfl

@[simp] theorem State.reply_params (r : Reply) : (s.reply r).params = s.params := rfl
@[simp] theorem State.reply_stat (r : Reply) : (s.reply r).stat = s.stat := rfl
@[simp] theorem State.reply_dec (r : Reply) : (s.reply r).dec = s.dec := rfl
@[simp] theorem State.reply_cur (r : Reply) : (s.reply r).cur = s.cur := rfl
@[simp] theorem State.reply_chunk (r : Reply) : (s.reply r).chunk = s.chunk := rfl
@[simp] theorem State.reply_outLen (r : Reply) : (s.reply r).outLen = s.outLen := rfl
@[simp] theorem State.reply_togo (r : Reply) : (s.reply r).togo = s.togo := rfl
@[simp] theorem State.reply_run (r : Reply) : (s.reply r).run = s.run := rfl
@[simp] theorem State.reply_out (r : Reply) : (s.reply r).out = s.out := rfl
@[simp] theorem State.reply_seq (r : Reply) : (s.reply r).seq = s.seq := rfl
@[simp] theorem State.reply_phase (r : Reply) : (s.reply r).phase = .idle := rfl
@[simp] theorem State.reply_pending (r : Reply) : (s.reply r).pending = s.pending := rfl
@[simp] theorem State.reply_replies (r : Reply) : (s.reply r).replies = s.replies ++ [r] := rfl
@[simp] theorem State.reply_draws (r : Reply) : (s.reply r).draws = s.draws := rfl

@[simp] theorem State.enterFault_params (e : Err) (q : Option Nat) : (s.enterFault e q).params = s.params := rfl
@[simp] theorem State.enterFault_stat (e : Err) (q : Option Nat) : (s.enterFault e q).stat = ⟨.faulted, errCode e, errSub e, narrow (q.getD s.cur.position), s.dec.framesRead⟩ := rfl
@[simp] theorem State.enterFault_dec (e : Err) (q : Option Nat) : (s.enterFault e q).dec = s.dec := rfl
@[simp] theorem State.enterFault_cur (e : Err) (q : Option Nat) : (s.enterFault e q).cur = s.cur := rfl
@[simp] theorem State.enterFault_chunk (e : Err) (q : Option Nat) : (s.enterFault e q).chunk = s.chunk := rfl
@[simp] theorem State.enterFault_outLen (e : Err) (q : Option Nat) : (s.enterFault e q).outLen = s.outLen := rfl
@[simp] theorem State.enterFault_togo (e : Err) (q : Option Nat) : (s.enterFault e q).togo = s.togo := rfl
@[simp] theorem State.enterFault_run (e : Err) (q : Option Nat) : (s.enterFault e q).run = s.run := rfl
@[simp] theorem State.enterFault_out (e : Err) (q : Option Nat) : (s.enterFault e q).out = s.out := rfl
@[simp] theorem State.enterFault_seq (e : Err) (q : Option Nat) : (s.enterFault e q).seq = s.seq := rfl
@[simp] theorem State.enterFault_phase (e : Err) (q : Option Nat) : (s.enterFault e q).phase = .idle := rfl
@[simp] theorem State.enterFault_pending (e : Err) (q : Option Nat) : (s.enterFault e q).pending = s.pending := rfl
@[simp] theorem State.enterFault_replies (e : Err) (q : Option Nat) : (s.enterFault e q).replies = s.replies ++ [⟨errCode e, .none⟩] := rfl
@[simp] theorem State.enterFault_draws (e : Err) (q : Option Nat) : (s.enterFault e q).draws = s.draws := rfl

@[simp] theorem State.startStream_params (wb : BitVec 5) : (s.startStream wb).params = s.params := rfl
@[simp] theorem State.startStream_stat (wb : BitVec 5) : (s.startStream wb).stat = ⟨.ready, 0, 0, 0, 0⟩ := rfl
@[simp] theorem State.startStream_dec (wb : BitVec 5) : (s.startStream wb).dec = initialDecoder s.params wb := rfl
@[simp] theorem State.startStream_cur (wb : BitVec 5) : (s.startStream wb).cur = s.cur := rfl
@[simp] theorem State.startStream_chunk (wb : BitVec 5) : (s.startStream wb).chunk = s.chunk := rfl
@[simp] theorem State.startStream_outLen (wb : BitVec 5) : (s.startStream wb).outLen = s.outLen := rfl
@[simp] theorem State.startStream_togo (wb : BitVec 5) : (s.startStream wb).togo = s.togo := rfl
@[simp] theorem State.startStream_run (wb : BitVec 5) : (s.startStream wb).run = s.run := rfl
@[simp] theorem State.startStream_out (wb : BitVec 5) : (s.startStream wb).out = s.out := rfl
@[simp] theorem State.startStream_seq (wb : BitVec 5) : (s.startStream wb).seq = s.seq := rfl
@[simp] theorem State.startStream_phase (wb : BitVec 5) : (s.startStream wb).phase = s.phase := rfl
@[simp] theorem State.startStream_pending (wb : BitVec 5) : (s.startStream wb).pending = s.pending := rfl
@[simp] theorem State.startStream_replies (wb : BitVec 5) : (s.startStream wb).replies = s.replies := rfl
@[simp] theorem State.startStream_draws (wb : BitVec 5) : (s.startStream wb).draws = s.draws := rfl

@[simp] theorem State.startFrame_params (c : List Byte) (n : Word) : (s.startFrame c n).params = s.params := rfl
@[simp] theorem State.startFrame_stat (c : List Byte) (n : Word) : (s.startFrame c n).stat = s.stat := rfl
@[simp] theorem State.startFrame_dec (c : List Byte) (n : Word) : (s.startFrame c n).dec = s.dec := rfl
@[simp] theorem State.startFrame_cur (c : List Byte) (n : Word) : (s.startFrame c n).cur = ⟨.bit, 0, 0, 0⟩ := rfl
@[simp] theorem State.startFrame_chunk (c : List Byte) (n : Word) : (s.startFrame c n).chunk = c := rfl
@[simp] theorem State.startFrame_outLen (c : List Byte) (n : Word) : (s.startFrame c n).outLen = n := rfl
@[simp] theorem State.startFrame_togo (c : List Byte) (n : Word) : (s.startFrame c n).togo = n := rfl
@[simp] theorem State.startFrame_run (c : List Byte) (n : Word) : (s.startFrame c n).run = s.run := rfl
@[simp] theorem State.startFrame_out (c : List Byte) (n : Word) : (s.startFrame c n).out = s.out := rfl
@[simp] theorem State.startFrame_seq (c : List Byte) (n : Word) : (s.startFrame c n).seq = s.seq := rfl
@[simp] theorem State.startFrame_phase (c : List Byte) (n : Word) : (s.startFrame c n).phase = if s.dec.headerRead then .mainLoop else .streamHdr := rfl
@[simp] theorem State.startFrame_pending (c : List Byte) (n : Word) : (s.startFrame c n).pending = s.pending := rfl
@[simp] theorem State.startFrame_replies (c : List Byte) (n : Word) : (s.startFrame c n).replies = s.replies := rfl
@[simp] theorem State.startFrame_draws (c : List Byte) (n : Word) : (s.startFrame c n).draws = s.draws := rfl

@[simp] theorem State.swapR1_params : (s.swapR1).params = s.params := rfl
@[simp] theorem State.swapR1_stat : (s.swapR1).stat = s.stat := rfl
@[simp] theorem State.swapR1_cur : (s.swapR1).cur = s.cur := rfl
@[simp] theorem State.swapR1_chunk : (s.swapR1).chunk = s.chunk := rfl
@[simp] theorem State.swapR1_outLen : (s.swapR1).outLen = s.outLen := rfl
@[simp] theorem State.swapR1_togo : (s.swapR1).togo = s.togo := rfl
@[simp] theorem State.swapR1_run : (s.swapR1).run = s.run := rfl
@[simp] theorem State.swapR1_out : (s.swapR1).out = s.out := rfl
@[simp] theorem State.swapR1_seq : (s.swapR1).seq = s.seq := rfl
@[simp] theorem State.swapR1_phase : (s.swapR1).phase = s.phase := rfl
@[simp] theorem State.swapR1_pending : (s.swapR1).pending = s.pending := rfl
@[simp] theorem State.swapR1_replies : (s.swapR1).replies = s.replies := rfl
@[simp] theorem State.swapR1_draws : (s.swapR1).draws = s.draws := rfl
@[simp] theorem State.swapR1_dec_wb : (s.swapR1).dec.wb = s.dec.wb := rfl
@[simp] theorem State.swapR1_dec_windowPos : (s.swapR1).dec.windowPos = s.dec.windowPos := rfl
@[simp] theorem State.swapR1_dec_r0 : (s.swapR1).dec.r0 = s.dec.r1 := rfl
@[simp] theorem State.swapR1_dec_r1 : (s.swapR1).dec.r1 = s.dec.r0 := rfl
@[simp] theorem State.swapR1_dec_r2 : (s.swapR1).dec.r2 = s.dec.r2 := rfl
@[simp] theorem State.swapR1_dec_blockType : (s.swapR1).dec.blockType = s.dec.blockType := rfl
@[simp] theorem State.swapR1_dec_blockLength : (s.swapR1).dec.blockLength = s.dec.blockLength := rfl
@[simp] theorem State.swapR1_dec_blockRemaining : (s.swapR1).dec.blockRemaining = s.dec.blockRemaining := rfl
@[simp] theorem State.swapR1_dec_headerRead : (s.swapR1).dec.headerRead = s.dec.headerRead := rfl
@[simp] theorem State.swapR1_dec_framesRead : (s.swapR1).dec.framesRead = s.dec.framesRead := rfl
@[simp] theorem State.swapR1_dec_e8FileSize : (s.swapR1).dec.e8FileSize = s.dec.e8FileSize := rfl
@[simp] theorem State.swapR1_dec_e8CurPos : (s.swapR1).dec.e8CurPos = s.dec.e8CurPos := rfl
@[simp] theorem State.swapR1_dec_e8Started : (s.swapR1).dec.e8Started = s.dec.e8Started := rfl
@[simp] theorem State.swapR1_dec_window : (s.swapR1).dec.window = s.dec.window := rfl
@[simp] theorem State.swapR1_dec_written : (s.swapR1).dec.written = s.dec.written := rfl
@[simp] theorem State.swapR1_dec_mainLen : (s.swapR1).dec.mainLen = s.dec.mainLen := rfl
@[simp] theorem State.swapR1_dec_lengthLen : (s.swapR1).dec.lengthLen = s.dec.lengthLen := rfl
@[simp] theorem State.swapR1_dec_alignedLen : (s.swapR1).dec.alignedLen = s.dec.alignedLen := rfl
@[simp] theorem State.swapR1_dec_preLen : (s.swapR1).dec.preLen = s.dec.preLen := rfl
@[simp] theorem State.swapR1_dec_preTable : (s.swapR1).dec.preTable = s.dec.preTable := rfl
@[simp] theorem State.swapR1_dec_mainTable : (s.swapR1).dec.mainTable = s.dec.mainTable := rfl
@[simp] theorem State.swapR1_dec_lengthTable : (s.swapR1).dec.lengthTable = s.dec.lengthTable := rfl
@[simp] theorem State.swapR1_dec_alignedTable : (s.swapR1).dec.alignedTable = s.dec.alignedTable := rfl

@[simp] theorem State.swapR2_params : (s.swapR2).params = s.params := rfl
@[simp] theorem State.swapR2_stat : (s.swapR2).stat = s.stat := rfl
@[simp] theorem State.swapR2_cur : (s.swapR2).cur = s.cur := rfl
@[simp] theorem State.swapR2_chunk : (s.swapR2).chunk = s.chunk := rfl
@[simp] theorem State.swapR2_outLen : (s.swapR2).outLen = s.outLen := rfl
@[simp] theorem State.swapR2_togo : (s.swapR2).togo = s.togo := rfl
@[simp] theorem State.swapR2_run : (s.swapR2).run = s.run := rfl
@[simp] theorem State.swapR2_out : (s.swapR2).out = s.out := rfl
@[simp] theorem State.swapR2_seq : (s.swapR2).seq = s.seq := rfl
@[simp] theorem State.swapR2_phase : (s.swapR2).phase = s.phase := rfl
@[simp] theorem State.swapR2_pending : (s.swapR2).pending = s.pending := rfl
@[simp] theorem State.swapR2_replies : (s.swapR2).replies = s.replies := rfl
@[simp] theorem State.swapR2_draws : (s.swapR2).draws = s.draws := rfl
@[simp] theorem State.swapR2_dec_wb : (s.swapR2).dec.wb = s.dec.wb := rfl
@[simp] theorem State.swapR2_dec_windowPos : (s.swapR2).dec.windowPos = s.dec.windowPos := rfl
@[simp] theorem State.swapR2_dec_r0 : (s.swapR2).dec.r0 = s.dec.r2 := rfl
@[simp] theorem State.swapR2_dec_r1 : (s.swapR2).dec.r1 = s.dec.r1 := rfl
@[simp] theorem State.swapR2_dec_r2 : (s.swapR2).dec.r2 = s.dec.r0 := rfl
@[simp] theorem State.swapR2_dec_blockType : (s.swapR2).dec.blockType = s.dec.blockType := rfl
@[simp] theorem State.swapR2_dec_blockLength : (s.swapR2).dec.blockLength = s.dec.blockLength := rfl
@[simp] theorem State.swapR2_dec_blockRemaining : (s.swapR2).dec.blockRemaining = s.dec.blockRemaining := rfl
@[simp] theorem State.swapR2_dec_headerRead : (s.swapR2).dec.headerRead = s.dec.headerRead := rfl
@[simp] theorem State.swapR2_dec_framesRead : (s.swapR2).dec.framesRead = s.dec.framesRead := rfl
@[simp] theorem State.swapR2_dec_e8FileSize : (s.swapR2).dec.e8FileSize = s.dec.e8FileSize := rfl
@[simp] theorem State.swapR2_dec_e8CurPos : (s.swapR2).dec.e8CurPos = s.dec.e8CurPos := rfl
@[simp] theorem State.swapR2_dec_e8Started : (s.swapR2).dec.e8Started = s.dec.e8Started := rfl
@[simp] theorem State.swapR2_dec_window : (s.swapR2).dec.window = s.dec.window := rfl
@[simp] theorem State.swapR2_dec_written : (s.swapR2).dec.written = s.dec.written := rfl
@[simp] theorem State.swapR2_dec_mainLen : (s.swapR2).dec.mainLen = s.dec.mainLen := rfl
@[simp] theorem State.swapR2_dec_lengthLen : (s.swapR2).dec.lengthLen = s.dec.lengthLen := rfl
@[simp] theorem State.swapR2_dec_alignedLen : (s.swapR2).dec.alignedLen = s.dec.alignedLen := rfl
@[simp] theorem State.swapR2_dec_preLen : (s.swapR2).dec.preLen = s.dec.preLen := rfl
@[simp] theorem State.swapR2_dec_preTable : (s.swapR2).dec.preTable = s.dec.preTable := rfl
@[simp] theorem State.swapR2_dec_mainTable : (s.swapR2).dec.mainTable = s.dec.mainTable := rfl
@[simp] theorem State.swapR2_dec_lengthTable : (s.swapR2).dec.lengthTable = s.dec.lengthTable := rfl
@[simp] theorem State.swapR2_dec_alignedTable : (s.swapR2).dec.alignedTable = s.dec.alignedTable := rfl

@[simp] theorem State.pushOffset_params (o : Word) : (s.pushOffset o).params = s.params := rfl
@[simp] theorem State.pushOffset_stat (o : Word) : (s.pushOffset o).stat = s.stat := rfl
@[simp] theorem State.pushOffset_cur (o : Word) : (s.pushOffset o).cur = s.cur := rfl
@[simp] theorem State.pushOffset_chunk (o : Word) : (s.pushOffset o).chunk = s.chunk := rfl
@[simp] theorem State.pushOffset_outLen (o : Word) : (s.pushOffset o).outLen = s.outLen := rfl
@[simp] theorem State.pushOffset_togo (o : Word) : (s.pushOffset o).togo = s.togo := rfl
@[simp] theorem State.pushOffset_run (o : Word) : (s.pushOffset o).run = s.run := rfl
@[simp] theorem State.pushOffset_out (o : Word) : (s.pushOffset o).out = s.out := rfl
@[simp] theorem State.pushOffset_seq (o : Word) : (s.pushOffset o).seq = s.seq := rfl
@[simp] theorem State.pushOffset_phase (o : Word) : (s.pushOffset o).phase = s.phase := rfl
@[simp] theorem State.pushOffset_pending (o : Word) : (s.pushOffset o).pending = s.pending := rfl
@[simp] theorem State.pushOffset_replies (o : Word) : (s.pushOffset o).replies = s.replies := rfl
@[simp] theorem State.pushOffset_draws (o : Word) : (s.pushOffset o).draws = s.draws := rfl
@[simp] theorem State.pushOffset_dec_wb (o : Word) : (s.pushOffset o).dec.wb = s.dec.wb := rfl
@[simp] theorem State.pushOffset_dec_windowPos (o : Word) : (s.pushOffset o).dec.windowPos = s.dec.windowPos := rfl
@[simp] theorem State.pushOffset_dec_r0 (o : Word) : (s.pushOffset o).dec.r0 = o := rfl
@[simp] theorem State.pushOffset_dec_r1 (o : Word) : (s.pushOffset o).dec.r1 = s.dec.r0 := rfl
@[simp] theorem State.pushOffset_dec_r2 (o : Word) : (s.pushOffset o).dec.r2 = s.dec.r1 := rfl
@[simp] theorem State.pushOffset_dec_blockType (o : Word) : (s.pushOffset o).dec.blockType = s.dec.blockType := rfl
@[simp] theorem State.pushOffset_dec_blockLength (o : Word) : (s.pushOffset o).dec.blockLength = s.dec.blockLength := rfl
@[simp] theorem State.pushOffset_dec_blockRemaining (o : Word) : (s.pushOffset o).dec.blockRemaining = s.dec.blockRemaining := rfl
@[simp] theorem State.pushOffset_dec_headerRead (o : Word) : (s.pushOffset o).dec.headerRead = s.dec.headerRead := rfl
@[simp] theorem State.pushOffset_dec_framesRead (o : Word) : (s.pushOffset o).dec.framesRead = s.dec.framesRead := rfl
@[simp] theorem State.pushOffset_dec_e8FileSize (o : Word) : (s.pushOffset o).dec.e8FileSize = s.dec.e8FileSize := rfl
@[simp] theorem State.pushOffset_dec_e8CurPos (o : Word) : (s.pushOffset o).dec.e8CurPos = s.dec.e8CurPos := rfl
@[simp] theorem State.pushOffset_dec_e8Started (o : Word) : (s.pushOffset o).dec.e8Started = s.dec.e8Started := rfl
@[simp] theorem State.pushOffset_dec_window (o : Word) : (s.pushOffset o).dec.window = s.dec.window := rfl
@[simp] theorem State.pushOffset_dec_written (o : Word) : (s.pushOffset o).dec.written = s.dec.written := rfl
@[simp] theorem State.pushOffset_dec_mainLen (o : Word) : (s.pushOffset o).dec.mainLen = s.dec.mainLen := rfl
@[simp] theorem State.pushOffset_dec_lengthLen (o : Word) : (s.pushOffset o).dec.lengthLen = s.dec.lengthLen := rfl
@[simp] theorem State.pushOffset_dec_alignedLen (o : Word) : (s.pushOffset o).dec.alignedLen = s.dec.alignedLen := rfl
@[simp] theorem State.pushOffset_dec_preLen (o : Word) : (s.pushOffset o).dec.preLen = s.dec.preLen := rfl
@[simp] theorem State.pushOffset_dec_preTable (o : Word) : (s.pushOffset o).dec.preTable = s.dec.preTable := rfl
@[simp] theorem State.pushOffset_dec_mainTable (o : Word) : (s.pushOffset o).dec.mainTable = s.dec.mainTable := rfl
@[simp] theorem State.pushOffset_dec_lengthTable (o : Word) : (s.pushOffset o).dec.lengthTable = s.dec.lengthTable := rfl
@[simp] theorem State.pushOffset_dec_alignedTable (o : Word) : (s.pushOffset o).dec.alignedTable = s.dec.alignedTable := rfl

@[simp] theorem State.putByte_params (v : Byte) : (s.putByte v).params = s.params := rfl
@[simp] theorem State.putByte_stat (v : Byte) : (s.putByte v).stat = s.stat := rfl
@[simp] theorem State.putByte_cur (v : Byte) : (s.putByte v).cur = s.cur := rfl
@[simp] theorem State.putByte_chunk (v : Byte) : (s.putByte v).chunk = s.chunk := rfl
@[simp] theorem State.putByte_outLen (v : Byte) : (s.putByte v).outLen = s.outLen := rfl
@[simp] theorem State.putByte_togo (v : Byte) : (s.putByte v).togo = s.togo := rfl
@[simp] theorem State.putByte_run (v : Byte) : (s.putByte v).run = s.run := rfl
@[simp] theorem State.putByte_out (v : Byte) : (s.putByte v).out = s.out := rfl
@[simp] theorem State.putByte_seq (v : Byte) : (s.putByte v).seq = s.seq := rfl
@[simp] theorem State.putByte_phase (v : Byte) : (s.putByte v).phase = s.phase := rfl
@[simp] theorem State.putByte_pending (v : Byte) : (s.putByte v).pending = s.pending := rfl
@[simp] theorem State.putByte_replies (v : Byte) : (s.putByte v).replies = s.replies := rfl
@[simp] theorem State.putByte_draws (v : Byte) : (s.putByte v).draws = s.draws := rfl
@[simp] theorem State.putByte_dec_wb (v : Byte) : (s.putByte v).dec.wb = s.dec.wb := rfl
@[simp] theorem State.putByte_dec_windowPos (v : Byte) : (s.putByte v).dec.windowPos = s.dec.windowPos + 1 := rfl
@[simp] theorem State.putByte_dec_r0 (v : Byte) : (s.putByte v).dec.r0 = s.dec.r0 := rfl
@[simp] theorem State.putByte_dec_r1 (v : Byte) : (s.putByte v).dec.r1 = s.dec.r1 := rfl
@[simp] theorem State.putByte_dec_r2 (v : Byte) : (s.putByte v).dec.r2 = s.dec.r2 := rfl
@[simp] theorem State.putByte_dec_blockType (v : Byte) : (s.putByte v).dec.blockType = s.dec.blockType := rfl
@[simp] theorem State.putByte_dec_blockLength (v : Byte) : (s.putByte v).dec.blockLength = s.dec.blockLength := rfl
@[simp] theorem State.putByte_dec_blockRemaining (v : Byte) : (s.putByte v).dec.blockRemaining = s.dec.blockRemaining := rfl
@[simp] theorem State.putByte_dec_headerRead (v : Byte) : (s.putByte v).dec.headerRead = s.dec.headerRead := rfl
@[simp] theorem State.putByte_dec_framesRead (v : Byte) : (s.putByte v).dec.framesRead = s.dec.framesRead := rfl
@[simp] theorem State.putByte_dec_e8FileSize (v : Byte) : (s.putByte v).dec.e8FileSize = s.dec.e8FileSize := rfl
@[simp] theorem State.putByte_dec_e8CurPos (v : Byte) : (s.putByte v).dec.e8CurPos = s.dec.e8CurPos := rfl
@[simp] theorem State.putByte_dec_e8Started (v : Byte) : (s.putByte v).dec.e8Started = s.dec.e8Started := rfl
@[simp] theorem State.putByte_dec_window (v : Byte) : (s.putByte v).dec.window = writeCell (windowBackground s.params) s.dec.window s.dec.windowPos.toNat v := rfl
@[simp] theorem State.putByte_dec_written (v : Byte) : (s.putByte v).dec.written = min (s.dec.written + 1) (windowSize s.dec.wb) := rfl
@[simp] theorem State.putByte_dec_mainLen (v : Byte) : (s.putByte v).dec.mainLen = s.dec.mainLen := rfl
@[simp] theorem State.putByte_dec_lengthLen (v : Byte) : (s.putByte v).dec.lengthLen = s.dec.lengthLen := rfl
@[simp] theorem State.putByte_dec_alignedLen (v : Byte) : (s.putByte v).dec.alignedLen = s.dec.alignedLen := rfl
@[simp] theorem State.putByte_dec_preLen (v : Byte) : (s.putByte v).dec.preLen = s.dec.preLen := rfl
@[simp] theorem State.putByte_dec_preTable (v : Byte) : (s.putByte v).dec.preTable = s.dec.preTable := rfl
@[simp] theorem State.putByte_dec_mainTable (v : Byte) : (s.putByte v).dec.mainTable = s.dec.mainTable := rfl
@[simp] theorem State.putByte_dec_lengthTable (v : Byte) : (s.putByte v).dec.lengthTable = s.dec.lengthTable := rfl
@[simp] theorem State.putByte_dec_alignedTable (v : Byte) : (s.putByte v).dec.alignedTable = s.dec.alignedTable := rfl

@[simp] theorem State.setHeader_params (w : Word) : (s.setHeader w).params = s.params := rfl
@[simp] theorem State.setHeader_stat (w : Word) : (s.setHeader w).stat = s.stat := rfl
@[simp] theorem State.setHeader_cur (w : Word) : (s.setHeader w).cur = s.cur := rfl
@[simp] theorem State.setHeader_chunk (w : Word) : (s.setHeader w).chunk = s.chunk := rfl
@[simp] theorem State.setHeader_outLen (w : Word) : (s.setHeader w).outLen = s.outLen := rfl
@[simp] theorem State.setHeader_togo (w : Word) : (s.setHeader w).togo = s.togo := rfl
@[simp] theorem State.setHeader_run (w : Word) : (s.setHeader w).run = s.run := rfl
@[simp] theorem State.setHeader_out (w : Word) : (s.setHeader w).out = s.out := rfl
@[simp] theorem State.setHeader_seq (w : Word) : (s.setHeader w).seq = s.seq := rfl
@[simp] theorem State.setHeader_phase (w : Word) : (s.setHeader w).phase = s.phase := rfl
@[simp] theorem State.setHeader_pending (w : Word) : (s.setHeader w).pending = s.pending := rfl
@[simp] theorem State.setHeader_replies (w : Word) : (s.setHeader w).replies = s.replies := rfl
@[simp] theorem State.setHeader_draws (w : Word) : (s.setHeader w).draws = s.draws := rfl
@[simp] theorem State.setHeader_dec_wb (w : Word) : (s.setHeader w).dec.wb = s.dec.wb := rfl
@[simp] theorem State.setHeader_dec_windowPos (w : Word) : (s.setHeader w).dec.windowPos = s.dec.windowPos := rfl
@[simp] theorem State.setHeader_dec_r0 (w : Word) : (s.setHeader w).dec.r0 = s.dec.r0 := rfl
@[simp] theorem State.setHeader_dec_r1 (w : Word) : (s.setHeader w).dec.r1 = s.dec.r1 := rfl
@[simp] theorem State.setHeader_dec_r2 (w : Word) : (s.setHeader w).dec.r2 = s.dec.r2 := rfl
@[simp] theorem State.setHeader_dec_blockType (w : Word) : (s.setHeader w).dec.blockType = s.dec.blockType := rfl
@[simp] theorem State.setHeader_dec_blockLength (w : Word) : (s.setHeader w).dec.blockLength = s.dec.blockLength := rfl
@[simp] theorem State.setHeader_dec_blockRemaining (w : Word) : (s.setHeader w).dec.blockRemaining = s.dec.blockRemaining := rfl
@[simp] theorem State.setHeader_dec_headerRead (w : Word) : (s.setHeader w).dec.headerRead = true := rfl
@[simp] theorem State.setHeader_dec_framesRead (w : Word) : (s.setHeader w).dec.framesRead = s.dec.framesRead := rfl
@[simp] theorem State.setHeader_dec_e8FileSize (w : Word) : (s.setHeader w).dec.e8FileSize = w := rfl
@[simp] theorem State.setHeader_dec_e8CurPos (w : Word) : (s.setHeader w).dec.e8CurPos = s.dec.e8CurPos := rfl
@[simp] theorem State.setHeader_dec_e8Started (w : Word) : (s.setHeader w).dec.e8Started = s.dec.e8Started := rfl
@[simp] theorem State.setHeader_dec_window (w : Word) : (s.setHeader w).dec.window = s.dec.window := rfl
@[simp] theorem State.setHeader_dec_written (w : Word) : (s.setHeader w).dec.written = s.dec.written := rfl
@[simp] theorem State.setHeader_dec_mainLen (w : Word) : (s.setHeader w).dec.mainLen = s.dec.mainLen := rfl
@[simp] theorem State.setHeader_dec_lengthLen (w : Word) : (s.setHeader w).dec.lengthLen = s.dec.lengthLen := rfl
@[simp] theorem State.setHeader_dec_alignedLen (w : Word) : (s.setHeader w).dec.alignedLen = s.dec.alignedLen := rfl
@[simp] theorem State.setHeader_dec_preLen (w : Word) : (s.setHeader w).dec.preLen = s.dec.preLen := rfl
@[simp] theorem State.setHeader_dec_preTable (w : Word) : (s.setHeader w).dec.preTable = s.dec.preTable := rfl
@[simp] theorem State.setHeader_dec_mainTable (w : Word) : (s.setHeader w).dec.mainTable = s.dec.mainTable := rfl
@[simp] theorem State.setHeader_dec_lengthTable (w : Word) : (s.setHeader w).dec.lengthTable = s.dec.lengthTable := rfl
@[simp] theorem State.setHeader_dec_alignedTable (w : Word) : (s.setHeader w).dec.alignedTable = s.dec.alignedTable := rfl

@[simp] theorem State.startE8_params : (s.startE8).params = s.params := rfl
@[simp] theorem State.startE8_stat : (s.startE8).stat = s.stat := rfl
@[simp] theorem State.startE8_cur : (s.startE8).cur = s.cur := rfl
@[simp] theorem State.startE8_chunk : (s.startE8).chunk = s.chunk := rfl
@[simp] theorem State.startE8_outLen : (s.startE8).outLen = s.outLen := rfl
@[simp] theorem State.startE8_togo : (s.startE8).togo = s.togo := rfl
@[simp] theorem State.startE8_run : (s.startE8).run = s.run := rfl
@[simp] theorem State.startE8_out : (s.startE8).out = s.out := rfl
@[simp] theorem State.startE8_seq : (s.startE8).seq = s.seq := rfl
@[simp] theorem State.startE8_phase : (s.startE8).phase = s.phase := rfl
@[simp] theorem State.startE8_pending : (s.startE8).pending = s.pending := rfl
@[simp] theorem State.startE8_replies : (s.startE8).replies = s.replies := rfl
@[simp] theorem State.startE8_draws : (s.startE8).draws = s.draws := rfl
@[simp] theorem State.startE8_dec_wb : (s.startE8).dec.wb = s.dec.wb := rfl
@[simp] theorem State.startE8_dec_windowPos : (s.startE8).dec.windowPos = s.dec.windowPos := rfl
@[simp] theorem State.startE8_dec_r0 : (s.startE8).dec.r0 = s.dec.r0 := rfl
@[simp] theorem State.startE8_dec_r1 : (s.startE8).dec.r1 = s.dec.r1 := rfl
@[simp] theorem State.startE8_dec_r2 : (s.startE8).dec.r2 = s.dec.r2 := rfl
@[simp] theorem State.startE8_dec_blockType : (s.startE8).dec.blockType = s.dec.blockType := rfl
@[simp] theorem State.startE8_dec_blockLength : (s.startE8).dec.blockLength = s.dec.blockLength := rfl
@[simp] theorem State.startE8_dec_blockRemaining : (s.startE8).dec.blockRemaining = s.dec.blockRemaining := rfl
@[simp] theorem State.startE8_dec_headerRead : (s.startE8).dec.headerRead = s.dec.headerRead := rfl
@[simp] theorem State.startE8_dec_framesRead : (s.startE8).dec.framesRead = s.dec.framesRead := rfl
@[simp] theorem State.startE8_dec_e8FileSize : (s.startE8).dec.e8FileSize = s.dec.e8FileSize := rfl
@[simp] theorem State.startE8_dec_e8CurPos : (s.startE8).dec.e8CurPos = s.dec.e8CurPos := rfl
@[simp] theorem State.startE8_dec_e8Started : (s.startE8).dec.e8Started = true := rfl
@[simp] theorem State.startE8_dec_window : (s.startE8).dec.window = s.dec.window := rfl
@[simp] theorem State.startE8_dec_written : (s.startE8).dec.written = s.dec.written := rfl
@[simp] theorem State.startE8_dec_mainLen : (s.startE8).dec.mainLen = s.dec.mainLen := rfl
@[simp] theorem State.startE8_dec_lengthLen : (s.startE8).dec.lengthLen = s.dec.lengthLen := rfl
@[simp] theorem State.startE8_dec_alignedLen : (s.startE8).dec.alignedLen = s.dec.alignedLen := rfl
@[simp] theorem State.startE8_dec_preLen : (s.startE8).dec.preLen = s.dec.preLen := rfl
@[simp] theorem State.startE8_dec_preTable : (s.startE8).dec.preTable = s.dec.preTable := rfl
@[simp] theorem State.startE8_dec_mainTable : (s.startE8).dec.mainTable = s.dec.mainTable := rfl
@[simp] theorem State.startE8_dec_lengthTable : (s.startE8).dec.lengthTable = s.dec.lengthTable := rfl
@[simp] theorem State.startE8_dec_alignedTable : (s.startE8).dec.alignedTable = s.dec.alignedTable := rfl

@[simp] theorem State.setBlock_params (t : BitVec 3) (n : BitVec 24) : (s.setBlock t n).params = s.params := rfl
@[simp] theorem State.setBlock_stat (t : BitVec 3) (n : BitVec 24) : (s.setBlock t n).stat = s.stat := rfl
@[simp] theorem State.setBlock_cur (t : BitVec 3) (n : BitVec 24) : (s.setBlock t n).cur = s.cur := rfl
@[simp] theorem State.setBlock_chunk (t : BitVec 3) (n : BitVec 24) : (s.setBlock t n).chunk = s.chunk := rfl
@[simp] theorem State.setBlock_outLen (t : BitVec 3) (n : BitVec 24) : (s.setBlock t n).outLen = s.outLen := rfl
@[simp] theorem State.setBlock_togo (t : BitVec 3) (n : BitVec 24) : (s.setBlock t n).togo = s.togo := rfl
@[simp] theorem State.setBlock_run (t : BitVec 3) (n : BitVec 24) : (s.setBlock t n).run = s.run := rfl
@[simp] theorem State.setBlock_out (t : BitVec 3) (n : BitVec 24) : (s.setBlock t n).out = s.out := rfl
@[simp] theorem State.setBlock_seq (t : BitVec 3) (n : BitVec 24) : (s.setBlock t n).seq = s.seq := rfl
@[simp] theorem State.setBlock_phase (t : BitVec 3) (n : BitVec 24) : (s.setBlock t n).phase = s.phase := rfl
@[simp] theorem State.setBlock_pending (t : BitVec 3) (n : BitVec 24) : (s.setBlock t n).pending = s.pending := rfl
@[simp] theorem State.setBlock_replies (t : BitVec 3) (n : BitVec 24) : (s.setBlock t n).replies = s.replies := rfl
@[simp] theorem State.setBlock_draws (t : BitVec 3) (n : BitVec 24) : (s.setBlock t n).draws = s.draws := rfl
@[simp] theorem State.setBlock_dec_wb (t : BitVec 3) (n : BitVec 24) : (s.setBlock t n).dec.wb = s.dec.wb := rfl
@[simp] theorem State.setBlock_dec_windowPos (t : BitVec 3) (n : BitVec 24) : (s.setBlock t n).dec.windowPos = s.dec.windowPos := rfl
@[simp] theorem State.setBlock_dec_r0 (t : BitVec 3) (n : BitVec 24) : (s.setBlock t n).dec.r0 = s.dec.r0 := rfl
@[simp] theorem State.setBlock_dec_r1 (t : BitVec 3) (n : BitVec 24) : (s.setBlock t n).dec.r1 = s.dec.r1 := rfl
@[simp] theorem State.setBlock_dec_r2 (t : BitVec 3) (n : BitVec 24) : (s.setBlock t n).dec.r2 = s.dec.r2 := rfl
@[simp] theorem State.setBlock_dec_blockType (t : BitVec 3) (n : BitVec 24) : (s.setBlock t n).dec.blockType = t := rfl
@[simp] theorem State.setBlock_dec_blockLength (t : BitVec 3) (n : BitVec 24) : (s.setBlock t n).dec.blockLength = n := rfl
@[simp] theorem State.setBlock_dec_blockRemaining (t : BitVec 3) (n : BitVec 24) : (s.setBlock t n).dec.blockRemaining = n := rfl
@[simp] theorem State.setBlock_dec_headerRead (t : BitVec 3) (n : BitVec 24) : (s.setBlock t n).dec.headerRead = s.dec.headerRead := rfl
@[simp] theorem State.setBlock_dec_framesRead (t : BitVec 3) (n : BitVec 24) : (s.setBlock t n).dec.framesRead = s.dec.framesRead := rfl
@[simp] theorem State.setBlock_dec_e8FileSize (t : BitVec 3) (n : BitVec 24) : (s.setBlock t n).dec.e8FileSize = s.dec.e8FileSize := rfl
@[simp] theorem State.setBlock_dec_e8CurPos (t : BitVec 3) (n : BitVec 24) : (s.setBlock t n).dec.e8CurPos = s.dec.e8CurPos := rfl
@[simp] theorem State.setBlock_dec_e8Started (t : BitVec 3) (n : BitVec 24) : (s.setBlock t n).dec.e8Started = s.dec.e8Started := rfl
@[simp] theorem State.setBlock_dec_window (t : BitVec 3) (n : BitVec 24) : (s.setBlock t n).dec.window = s.dec.window := rfl
@[simp] theorem State.setBlock_dec_written (t : BitVec 3) (n : BitVec 24) : (s.setBlock t n).dec.written = s.dec.written := rfl
@[simp] theorem State.setBlock_dec_mainLen (t : BitVec 3) (n : BitVec 24) : (s.setBlock t n).dec.mainLen = s.dec.mainLen := rfl
@[simp] theorem State.setBlock_dec_lengthLen (t : BitVec 3) (n : BitVec 24) : (s.setBlock t n).dec.lengthLen = s.dec.lengthLen := rfl
@[simp] theorem State.setBlock_dec_alignedLen (t : BitVec 3) (n : BitVec 24) : (s.setBlock t n).dec.alignedLen = s.dec.alignedLen := rfl
@[simp] theorem State.setBlock_dec_preLen (t : BitVec 3) (n : BitVec 24) : (s.setBlock t n).dec.preLen = s.dec.preLen := rfl
@[simp] theorem State.setBlock_dec_preTable (t : BitVec 3) (n : BitVec 24) : (s.setBlock t n).dec.preTable = s.dec.preTable := rfl
@[simp] theorem State.setBlock_dec_mainTable (t : BitVec 3) (n : BitVec 24) : (s.setBlock t n).dec.mainTable = s.dec.mainTable := rfl
@[simp] theorem State.setBlock_dec_lengthTable (t : BitVec 3) (n : BitVec 24) : (s.setBlock t n).dec.lengthTable = s.dec.lengthTable := rfl
@[simp] theorem State.setBlock_dec_alignedTable (t : BitVec 3) (n : BitVec 24) : (s.setBlock t n).dec.alignedTable = s.dec.alignedTable := rfl

@[simp] theorem State.spendRun_params (n : Nat) : (s.spendRun n).params = s.params := rfl
@[simp] theorem State.spendRun_stat (n : Nat) : (s.spendRun n).stat = s.stat := rfl
@[simp] theorem State.spendRun_dec (n : Nat) : (s.spendRun n).dec = s.dec := rfl
@[simp] theorem State.spendRun_cur (n : Nat) : (s.spendRun n).cur = s.cur := rfl
@[simp] theorem State.spendRun_chunk (n : Nat) : (s.spendRun n).chunk = s.chunk := rfl
@[simp] theorem State.spendRun_outLen (n : Nat) : (s.spendRun n).outLen = s.outLen := rfl
@[simp] theorem State.spendRun_togo (n : Nat) : (s.spendRun n).togo = s.togo := rfl
@[simp] theorem State.spendRun_run (n : Nat) : (s.spendRun n).run = s.run - n := rfl
@[simp] theorem State.spendRun_out (n : Nat) : (s.spendRun n).out = s.out := rfl
@[simp] theorem State.spendRun_seq (n : Nat) : (s.spendRun n).seq = s.seq := rfl
@[simp] theorem State.spendRun_phase (n : Nat) : (s.spendRun n).phase = .runLoop := rfl
@[simp] theorem State.spendRun_pending (n : Nat) : (s.spendRun n).pending = s.pending := rfl
@[simp] theorem State.spendRun_replies (n : Nat) : (s.spendRun n).replies = s.replies := rfl
@[simp] theorem State.spendRun_draws (n : Nat) : (s.spendRun n).draws = s.draws := rfl

@[simp] theorem State.takeRun_params : (s.takeRun).params = s.params := rfl
@[simp] theorem State.takeRun_stat : (s.takeRun).stat = s.stat := rfl
@[simp] theorem State.takeRun_cur : (s.takeRun).cur = s.cur := rfl
@[simp] theorem State.takeRun_chunk : (s.takeRun).chunk = s.chunk := rfl
@[simp] theorem State.takeRun_outLen : (s.takeRun).outLen = s.outLen := rfl
@[simp] theorem State.takeRun_togo : (s.takeRun).togo = s.togo - BitVec.ofNat 32 (min s.dec.blockRemaining.toNat s.togo.toNat) := rfl
@[simp] theorem State.takeRun_run : (s.takeRun).run = min s.dec.blockRemaining.toNat s.togo.toNat := rfl
@[simp] theorem State.takeRun_out : (s.takeRun).out = s.out := rfl
@[simp] theorem State.takeRun_seq : (s.takeRun).seq = s.seq := rfl
@[simp] theorem State.takeRun_phase : (s.takeRun).phase = s.phase := rfl
@[simp] theorem State.takeRun_pending : (s.takeRun).pending = s.pending := rfl
@[simp] theorem State.takeRun_replies : (s.takeRun).replies = s.replies := rfl
@[simp] theorem State.takeRun_draws : (s.takeRun).draws = s.draws := rfl
@[simp] theorem State.takeRun_dec_wb : (s.takeRun).dec.wb = s.dec.wb := rfl
@[simp] theorem State.takeRun_dec_windowPos : (s.takeRun).dec.windowPos = BitVec.ofNat 22 (s.dec.windowPos.toNat % windowSize s.dec.wb) := rfl
@[simp] theorem State.takeRun_dec_r0 : (s.takeRun).dec.r0 = s.dec.r0 := rfl
@[simp] theorem State.takeRun_dec_r1 : (s.takeRun).dec.r1 = s.dec.r1 := rfl
@[simp] theorem State.takeRun_dec_r2 : (s.takeRun).dec.r2 = s.dec.r2 := rfl
@[simp] theorem State.takeRun_dec_blockType : (s.takeRun).dec.blockType = s.dec.blockType := rfl
@[simp] theorem State.takeRun_dec_blockLength : (s.takeRun).dec.blockLength = s.dec.blockLength := rfl
@[simp] theorem State.takeRun_dec_blockRemaining : (s.takeRun).dec.blockRemaining = s.dec.blockRemaining - BitVec.ofNat 24 (min s.dec.blockRemaining.toNat s.togo.toNat) := rfl
@[simp] theorem State.takeRun_dec_headerRead : (s.takeRun).dec.headerRead = s.dec.headerRead := rfl
@[simp] theorem State.takeRun_dec_framesRead : (s.takeRun).dec.framesRead = s.dec.framesRead := rfl
@[simp] theorem State.takeRun_dec_e8FileSize : (s.takeRun).dec.e8FileSize = s.dec.e8FileSize := rfl
@[simp] theorem State.takeRun_dec_e8CurPos : (s.takeRun).dec.e8CurPos = s.dec.e8CurPos := rfl
@[simp] theorem State.takeRun_dec_e8Started : (s.takeRun).dec.e8Started = s.dec.e8Started := rfl
@[simp] theorem State.takeRun_dec_window : (s.takeRun).dec.window = s.dec.window := rfl
@[simp] theorem State.takeRun_dec_written : (s.takeRun).dec.written = s.dec.written := rfl
@[simp] theorem State.takeRun_dec_mainLen : (s.takeRun).dec.mainLen = s.dec.mainLen := rfl
@[simp] theorem State.takeRun_dec_lengthLen : (s.takeRun).dec.lengthLen = s.dec.lengthLen := rfl
@[simp] theorem State.takeRun_dec_alignedLen : (s.takeRun).dec.alignedLen = s.dec.alignedLen := rfl
@[simp] theorem State.takeRun_dec_preLen : (s.takeRun).dec.preLen = s.dec.preLen := rfl
@[simp] theorem State.takeRun_dec_preTable : (s.takeRun).dec.preTable = s.dec.preTable := rfl
@[simp] theorem State.takeRun_dec_mainTable : (s.takeRun).dec.mainTable = s.dec.mainTable := rfl
@[simp] theorem State.takeRun_dec_lengthTable : (s.takeRun).dec.lengthTable = s.dec.lengthTable := rfl
@[simp] theorem State.takeRun_dec_alignedTable : (s.takeRun).dec.alignedTable = s.dec.alignedTable := rfl

@[simp] theorem State.advanceE8_params : (s.advanceE8).params = s.params := rfl
@[simp] theorem State.advanceE8_stat : (s.advanceE8).stat = s.stat := rfl
@[simp] theorem State.advanceE8_cur : (s.advanceE8).cur = s.cur := rfl
@[simp] theorem State.advanceE8_chunk : (s.advanceE8).chunk = s.chunk := rfl
@[simp] theorem State.advanceE8_outLen : (s.advanceE8).outLen = s.outLen := rfl
@[simp] theorem State.advanceE8_togo : (s.advanceE8).togo = s.togo := rfl
@[simp] theorem State.advanceE8_run : (s.advanceE8).run = s.run := rfl
@[simp] theorem State.advanceE8_out : (s.advanceE8).out = s.out := rfl
@[simp] theorem State.advanceE8_seq : (s.advanceE8).seq = s.seq := rfl
@[simp] theorem State.advanceE8_phase : (s.advanceE8).phase = s.phase := rfl
@[simp] theorem State.advanceE8_pending : (s.advanceE8).pending = s.pending := rfl
@[simp] theorem State.advanceE8_replies : (s.advanceE8).replies = s.replies := rfl
@[simp] theorem State.advanceE8_draws : (s.advanceE8).draws = s.draws := rfl
@[simp] theorem State.advanceE8_dec_wb : (s.advanceE8).dec.wb = s.dec.wb := rfl
@[simp] theorem State.advanceE8_dec_windowPos : (s.advanceE8).dec.windowPos = s.dec.windowPos := rfl
@[simp] theorem State.advanceE8_dec_r0 : (s.advanceE8).dec.r0 = s.dec.r0 := rfl
@[simp] theorem State.advanceE8_dec_r1 : (s.advanceE8).dec.r1 = s.dec.r1 := rfl
@[simp] theorem State.advanceE8_dec_r2 : (s.advanceE8).dec.r2 = s.dec.r2 := rfl
@[simp] theorem State.advanceE8_dec_blockType : (s.advanceE8).dec.blockType = s.dec.blockType := rfl
@[simp] theorem State.advanceE8_dec_blockLength : (s.advanceE8).dec.blockLength = s.dec.blockLength := rfl
@[simp] theorem State.advanceE8_dec_blockRemaining : (s.advanceE8).dec.blockRemaining = s.dec.blockRemaining := rfl
@[simp] theorem State.advanceE8_dec_headerRead : (s.advanceE8).dec.headerRead = s.dec.headerRead := rfl
@[simp] theorem State.advanceE8_dec_framesRead : (s.advanceE8).dec.framesRead = s.dec.framesRead := rfl
@[simp] theorem State.advanceE8_dec_e8FileSize : (s.advanceE8).dec.e8FileSize = s.dec.e8FileSize := rfl
@[simp] theorem State.advanceE8_dec_e8CurPos : (s.advanceE8).dec.e8CurPos = s.dec.e8CurPos + s.outLen := rfl
@[simp] theorem State.advanceE8_dec_e8Started : (s.advanceE8).dec.e8Started = s.dec.e8Started := rfl
@[simp] theorem State.advanceE8_dec_window : (s.advanceE8).dec.window = s.dec.window := rfl
@[simp] theorem State.advanceE8_dec_written : (s.advanceE8).dec.written = s.dec.written := rfl
@[simp] theorem State.advanceE8_dec_mainLen : (s.advanceE8).dec.mainLen = s.dec.mainLen := rfl
@[simp] theorem State.advanceE8_dec_lengthLen : (s.advanceE8).dec.lengthLen = s.dec.lengthLen := rfl
@[simp] theorem State.advanceE8_dec_alignedLen : (s.advanceE8).dec.alignedLen = s.dec.alignedLen := rfl
@[simp] theorem State.advanceE8_dec_preLen : (s.advanceE8).dec.preLen = s.dec.preLen := rfl
@[simp] theorem State.advanceE8_dec_preTable : (s.advanceE8).dec.preTable = s.dec.preTable := rfl
@[simp] theorem State.advanceE8_dec_mainTable : (s.advanceE8).dec.mainTable = s.dec.mainTable := rfl
@[simp] theorem State.advanceE8_dec_lengthTable : (s.advanceE8).dec.lengthTable = s.dec.lengthTable := rfl
@[simp] theorem State.advanceE8_dec_alignedTable : (s.advanceE8).dec.alignedTable = s.dec.alignedTable := rfl

@[simp] theorem State.countFrame_params : (s.countFrame).params = s.params := rfl
@[simp] theorem State.countFrame_stat : (s.countFrame).stat = s.stat := rfl
@[simp] theorem State.countFrame_cur : (s.countFrame).cur = s.cur := rfl
@[simp] theorem State.countFrame_chunk : (s.countFrame).chunk = s.chunk := rfl
@[simp] theorem State.countFrame_outLen : (s.countFrame).outLen = s.outLen := rfl
@[simp] theorem State.countFrame_togo : (s.countFrame).togo = s.togo := rfl
@[simp] theorem State.countFrame_run : (s.countFrame).run = s.run := rfl
@[simp] theorem State.countFrame_out : (s.countFrame).out = s.out := rfl
@[simp] theorem State.countFrame_seq : (s.countFrame).seq = s.seq := rfl
@[simp] theorem State.countFrame_phase : (s.countFrame).phase = s.phase := rfl
@[simp] theorem State.countFrame_pending : (s.countFrame).pending = s.pending := rfl
@[simp] theorem State.countFrame_replies : (s.countFrame).replies = s.replies := rfl
@[simp] theorem State.countFrame_draws : (s.countFrame).draws = s.draws := rfl
@[simp] theorem State.countFrame_dec_wb : (s.countFrame).dec.wb = s.dec.wb := rfl
@[simp] theorem State.countFrame_dec_windowPos : (s.countFrame).dec.windowPos = s.dec.windowPos := rfl
@[simp] theorem State.countFrame_dec_r0 : (s.countFrame).dec.r0 = s.dec.r0 := rfl
@[simp] theorem State.countFrame_dec_r1 : (s.countFrame).dec.r1 = s.dec.r1 := rfl
@[simp] theorem State.countFrame_dec_r2 : (s.countFrame).dec.r2 = s.dec.r2 := rfl
@[simp] theorem State.countFrame_dec_blockType : (s.countFrame).dec.blockType = s.dec.blockType := rfl
@[simp] theorem State.countFrame_dec_blockLength : (s.countFrame).dec.blockLength = s.dec.blockLength := rfl
@[simp] theorem State.countFrame_dec_blockRemaining : (s.countFrame).dec.blockRemaining = s.dec.blockRemaining := rfl
@[simp] theorem State.countFrame_dec_headerRead : (s.countFrame).dec.headerRead = s.dec.headerRead := rfl
@[simp] theorem State.countFrame_dec_framesRead : (s.countFrame).dec.framesRead = BitVec.ofNat 16 (min (s.dec.framesRead.toNat + 1) 32768) := rfl
@[simp] theorem State.countFrame_dec_e8FileSize : (s.countFrame).dec.e8FileSize = s.dec.e8FileSize := rfl
@[simp] theorem State.countFrame_dec_e8CurPos : (s.countFrame).dec.e8CurPos = s.dec.e8CurPos := rfl
@[simp] theorem State.countFrame_dec_e8Started : (s.countFrame).dec.e8Started = s.dec.e8Started := rfl
@[simp] theorem State.countFrame_dec_window : (s.countFrame).dec.window = s.dec.window := rfl
@[simp] theorem State.countFrame_dec_written : (s.countFrame).dec.written = s.dec.written := rfl
@[simp] theorem State.countFrame_dec_mainLen : (s.countFrame).dec.mainLen = s.dec.mainLen := rfl
@[simp] theorem State.countFrame_dec_lengthLen : (s.countFrame).dec.lengthLen = s.dec.lengthLen := rfl
@[simp] theorem State.countFrame_dec_alignedLen : (s.countFrame).dec.alignedLen = s.dec.alignedLen := rfl
@[simp] theorem State.countFrame_dec_preLen : (s.countFrame).dec.preLen = s.dec.preLen := rfl
@[simp] theorem State.countFrame_dec_preTable : (s.countFrame).dec.preTable = s.dec.preTable := rfl
@[simp] theorem State.countFrame_dec_mainTable : (s.countFrame).dec.mainTable = s.dec.mainTable := rfl
@[simp] theorem State.countFrame_dec_lengthTable : (s.countFrame).dec.lengthTable = s.dec.lengthTable := rfl
@[simp] theorem State.countFrame_dec_alignedTable : (s.countFrame).dec.alignedTable = s.dec.alignedTable := rfl

@[simp] theorem State.skip_params (n : Nat) : (s.skip n).params = s.params := rfl
@[simp] theorem State.skip_stat (n : Nat) : (s.skip n).stat = s.stat := rfl
@[simp] theorem State.skip_dec (n : Nat) : (s.skip n).dec = s.dec := rfl
@[simp] theorem State.skip_cur (n : Nat) : (s.skip n).cur = { s.cur with c := narrow (s.cur.c.toNat + n) } := rfl
@[simp] theorem State.skip_chunk (n : Nat) : (s.skip n).chunk = s.chunk := rfl
@[simp] theorem State.skip_outLen (n : Nat) : (s.skip n).outLen = s.outLen := rfl
@[simp] theorem State.skip_togo (n : Nat) : (s.skip n).togo = s.togo := rfl
@[simp] theorem State.skip_run (n : Nat) : (s.skip n).run = s.run := rfl
@[simp] theorem State.skip_out (n : Nat) : (s.skip n).out = s.out := rfl
@[simp] theorem State.skip_seq (n : Nat) : (s.skip n).seq = s.seq := rfl
@[simp] theorem State.skip_phase (n : Nat) : (s.skip n).phase = s.phase := rfl
@[simp] theorem State.skip_pending (n : Nat) : (s.skip n).pending = s.pending := rfl
@[simp] theorem State.skip_replies (n : Nat) : (s.skip n).replies = s.replies := rfl
@[simp] theorem State.skip_draws (n : Nat) : (s.skip n).draws = s.draws := rfl

@[simp] theorem State.skipRaw_params (n : Nat) : (s.skipRaw n).params = s.params := rfl
@[simp] theorem State.skipRaw_stat (n : Nat) : (s.skipRaw n).stat = s.stat := rfl
@[simp] theorem State.skipRaw_dec (n : Nat) : (s.skipRaw n).dec = s.dec := rfl
@[simp] theorem State.skipRaw_cur (n : Nat) : (s.skipRaw n).cur = { s.cur with inPos := narrow (s.cur.inPos.toNat + n) } := rfl
@[simp] theorem State.skipRaw_chunk (n : Nat) : (s.skipRaw n).chunk = s.chunk := rfl
@[simp] theorem State.skipRaw_outLen (n : Nat) : (s.skipRaw n).outLen = s.outLen := rfl
@[simp] theorem State.skipRaw_togo (n : Nat) : (s.skipRaw n).togo = s.togo := rfl
@[simp] theorem State.skipRaw_run (n : Nat) : (s.skipRaw n).run = s.run := rfl
@[simp] theorem State.skipRaw_out (n : Nat) : (s.skipRaw n).out = s.out := rfl
@[simp] theorem State.skipRaw_seq (n : Nat) : (s.skipRaw n).seq = s.seq := rfl
@[simp] theorem State.skipRaw_phase (n : Nat) : (s.skipRaw n).phase = s.phase := rfl
@[simp] theorem State.skipRaw_pending (n : Nat) : (s.skipRaw n).pending = s.pending := rfl
@[simp] theorem State.skipRaw_replies (n : Nat) : (s.skipRaw n).replies = s.replies := rfl
@[simp] theorem State.skipRaw_draws (n : Nat) : (s.skipRaw n).draws = s.draws := rfl

/-! `setRecordLens` and `writeLens` change one length array (and the phase). -/

@[simp] theorem State.setRecordLens_params (m : Cells 5) (r : Record) : (s.setRecordLens m r).params = s.params := by cases r <;> rfl
@[simp] theorem State.setRecordLens_stat (m : Cells 5) (r : Record) : (s.setRecordLens m r).stat = s.stat := by cases r <;> rfl
@[simp] theorem State.setRecordLens_cur (m : Cells 5) (r : Record) : (s.setRecordLens m r).cur = s.cur := by cases r <;> rfl
@[simp] theorem State.setRecordLens_chunk (m : Cells 5) (r : Record) : (s.setRecordLens m r).chunk = s.chunk := by cases r <;> rfl
@[simp] theorem State.setRecordLens_outLen (m : Cells 5) (r : Record) : (s.setRecordLens m r).outLen = s.outLen := by cases r <;> rfl
@[simp] theorem State.setRecordLens_togo (m : Cells 5) (r : Record) : (s.setRecordLens m r).togo = s.togo := by cases r <;> rfl
@[simp] theorem State.setRecordLens_run (m : Cells 5) (r : Record) : (s.setRecordLens m r).run = s.run := by cases r <;> rfl
@[simp] theorem State.setRecordLens_out (m : Cells 5) (r : Record) : (s.setRecordLens m r).out = s.out := by cases r <;> rfl
@[simp] theorem State.setRecordLens_seq (m : Cells 5) (r : Record) : (s.setRecordLens m r).seq = s.seq := by cases r <;> rfl
@[simp] theorem State.setRecordLens_phase (m : Cells 5) (r : Record) : (s.setRecordLens m r).phase = s.phase := by cases r <;> rfl
@[simp] theorem State.setRecordLens_pending (m : Cells 5) (r : Record) : (s.setRecordLens m r).pending = s.pending := by cases r <;> rfl
@[simp] theorem State.setRecordLens_replies (m : Cells 5) (r : Record) : (s.setRecordLens m r).replies = s.replies := by cases r <;> rfl
@[simp] theorem State.setRecordLens_draws (m : Cells 5) (r : Record) : (s.setRecordLens m r).draws = s.draws := by cases r <;> rfl
@[simp] theorem State.setRecordLens_dec_wb (m : Cells 5) (r : Record) : (s.setRecordLens m r).dec.wb = s.dec.wb := by cases r <;> rfl
@[simp] theorem State.setRecordLens_dec_windowPos (m : Cells 5) (r : Record) : (s.setRecordLens m r).dec.windowPos = s.dec.windowPos := by cases r <;> rfl
@[simp] theorem State.setRecordLens_dec_r0 (m : Cells 5) (r : Record) : (s.setRecordLens m r).dec.r0 = s.dec.r0 := by cases r <;> rfl
@[simp] theorem State.setRecordLens_dec_r1 (m : Cells 5) (r : Record) : (s.setRecordLens m r).dec.r1 = s.dec.r1 := by cases r <;> rfl
@[simp] theorem State.setRecordLens_dec_r2 (m : Cells 5) (r : Record) : (s.setRecordLens m r).dec.r2 = s.dec.r2 := by cases r <;> rfl
@[simp] theorem State.setRecordLens_dec_blockType (m : Cells 5) (r : Record) : (s.setRecordLens m r).dec.blockType = s.dec.blockType := by cases r <;> rfl
@[simp] theorem State.setRecordLens_dec_blockLength (m : Cells 5) (r : Record) : (s.setRecordLens m r).dec.blockLength = s.dec.blockLength := by cases r <;> rfl
@[simp] theorem State.setRecordLens_dec_blockRemaining (m : Cells 5) (r : Record) : (s.setRecordLens m r).dec.blockRemaining = s.dec.blockRemaining := by cases r <;> rfl
@[simp] theorem State.setRecordLens_dec_headerRead (m : Cells 5) (r : Record) : (s.setRecordLens m r).dec.headerRead = s.dec.headerRead := by cases r <;> rfl
@[simp] theorem State.setRecordLens_dec_framesRead (m : Cells 5) (r : Record) : (s.setRecordLens m r).dec.framesRead = s.dec.framesRead := by cases r <;> rfl
@[simp] theorem State.setRecordLens_dec_e8FileSize (m : Cells 5) (r : Record) : (s.setRecordLens m r).dec.e8FileSize = s.dec.e8FileSize := by cases r <;> rfl
@[simp] theorem State.setRecordLens_dec_e8CurPos (m : Cells 5) (r : Record) : (s.setRecordLens m r).dec.e8CurPos = s.dec.e8CurPos := by cases r <;> rfl
@[simp] theorem State.setRecordLens_dec_e8Started (m : Cells 5) (r : Record) : (s.setRecordLens m r).dec.e8Started = s.dec.e8Started := by cases r <;> rfl
@[simp] theorem State.setRecordLens_dec_window (m : Cells 5) (r : Record) : (s.setRecordLens m r).dec.window = s.dec.window := by cases r <;> rfl
@[simp] theorem State.setRecordLens_dec_written (m : Cells 5) (r : Record) : (s.setRecordLens m r).dec.written = s.dec.written := by cases r <;> rfl
@[simp] theorem State.setRecordLens_dec_alignedLen (m : Cells 5) (r : Record) : (s.setRecordLens m r).dec.alignedLen = s.dec.alignedLen := by cases r <;> rfl
@[simp] theorem State.setRecordLens_dec_preLen (m : Cells 5) (r : Record) : (s.setRecordLens m r).dec.preLen = s.dec.preLen := by cases r <;> rfl
@[simp] theorem State.setRecordLens_dec_preTable (m : Cells 5) (r : Record) : (s.setRecordLens m r).dec.preTable = s.dec.preTable := by cases r <;> rfl
@[simp] theorem State.setRecordLens_dec_mainTable (m : Cells 5) (r : Record) : (s.setRecordLens m r).dec.mainTable = s.dec.mainTable := by cases r <;> rfl
@[simp] theorem State.setRecordLens_dec_lengthTable (m : Cells 5) (r : Record) : (s.setRecordLens m r).dec.lengthTable = s.dec.lengthTable := by cases r <;> rfl
@[simp] theorem State.setRecordLens_dec_alignedTable (m : Cells 5) (r : Record) : (s.setRecordLens m r).dec.alignedTable = s.dec.alignedTable := by cases r <;> rfl
@[simp] theorem State.setRecordLens_recordLens (m : Cells 5) (r : Record) : (s.setRecordLens m r).recordLens r = m := by cases r <;> rfl
@[simp] theorem State.goto_recordLens (p : Phase) (r : Record) : (s.goto p).recordLens r = s.recordLens r := by cases r <;> rfl
@[simp] theorem State.skip_recordLens (n : Nat) (r : Record) : (s.skip n).recordLens r = s.recordLens r := by cases r <;> rfl

@[simp] theorem State.writeLens_params (r : Record) (x n : Nat) (v : BitVec 5) : (s.writeLens r x n v).params = s.params := by cases r <;> rfl
@[simp] theorem State.writeLens_stat (r : Record) (x n : Nat) (v : BitVec 5) : (s.writeLens r x n v).stat = s.stat := by cases r <;> rfl
@[simp] theorem State.writeLens_cur (r : Record) (x n : Nat) (v : BitVec 5) : (s.writeLens r x n v).cur = s.cur := by cases r <;> rfl
@[simp] theorem State.writeLens_chunk (r : Record) (x n : Nat) (v : BitVec 5) : (s.writeLens r x n v).chunk = s.chunk := by cases r <;> rfl
@[simp] theorem State.writeLens_outLen (r : Record) (x n : Nat) (v : BitVec 5) : (s.writeLens r x n v).outLen = s.outLen := by cases r <;> rfl
@[simp] theorem State.writeLens_togo (r : Record) (x n : Nat) (v : BitVec 5) : (s.writeLens r x n v).togo = s.togo := by cases r <;> rfl
@[simp] theorem State.writeLens_run (r : Record) (x n : Nat) (v : BitVec 5) : (s.writeLens r x n v).run = s.run := by cases r <;> rfl
@[simp] theorem State.writeLens_out (r : Record) (x n : Nat) (v : BitVec 5) : (s.writeLens r x n v).out = s.out := by cases r <;> rfl
@[simp] theorem State.writeLens_seq (r : Record) (x n : Nat) (v : BitVec 5) : (s.writeLens r x n v).seq = s.seq := by cases r <;> rfl
@[simp] theorem State.writeLens_pending (r : Record) (x n : Nat) (v : BitVec 5) : (s.writeLens r x n v).pending = s.pending := by cases r <;> rfl
@[simp] theorem State.writeLens_replies (r : Record) (x n : Nat) (v : BitVec 5) : (s.writeLens r x n v).replies = s.replies := by cases r <;> rfl
@[simp] theorem State.writeLens_draws (r : Record) (x n : Nat) (v : BitVec 5) : (s.writeLens r x n v).draws = s.draws := by cases r <;> rfl
@[simp] theorem State.writeLens_phase (r : Record) (x n : Nat) (v : BitVec 5) : (s.writeLens r x n v).phase = .record r (x + n) := rfl
@[simp] theorem State.writeLens_dec_wb (r : Record) (x n : Nat) (v : BitVec 5) : (s.writeLens r x n v).dec.wb = s.dec.wb := by cases r <;> rfl
@[simp] theorem State.writeLens_dec_windowPos (r : Record) (x n : Nat) (v : BitVec 5) : (s.writeLens r x n v).dec.windowPos = s.dec.windowPos := by cases r <;> rfl
@[simp] theorem State.writeLens_dec_r0 (r : Record) (x n : Nat) (v : BitVec 5) : (s.writeLens r x n v).dec.r0 = s.dec.r0 := by cases r <;> rfl
@[simp] theorem State.writeLens_dec_r1 (r : Record) (x n : Nat) (v : BitVec 5) : (s.writeLens r x n v).dec.r1 = s.dec.r1 := by cases r <;> rfl
@[simp] theorem State.writeLens_dec_r2 (r : Record) (x n : Nat) (v : BitVec 5) : (s.writeLens r x n v).dec.r2 = s.dec.r2 := by cases r <;> rfl
@[simp] theorem State.writeLens_dec_blockType (r : Record) (x n : Nat) (v : BitVec 5) : (s.writeLens r x n v).dec.blockType = s.dec.blockType := by cases r <;> rfl
@[simp] theorem State.writeLens_dec_blockLength (r : Record) (x n : Nat) (v : BitVec 5) : (s.writeLens r x n v).dec.blockLength = s.dec.blockLength := by cases r <;> rfl
@[simp] theorem State.writeLens_dec_blockRemaining (r : Record) (x n : Nat) (v : BitVec 5) : (s.writeLens r x n v).dec.blockRemaining = s.dec.blockRemaining := by cases r <;> rfl
@[simp] theorem State.writeLens_dec_headerRead (r : Record) (x n : Nat) (v : BitVec 5) : (s.writeLens r x n v).dec.headerRead = s.dec.headerRead := by cases r <;> rfl
@[simp] theorem State.writeLens_dec_framesRead (r : Record) (x n : Nat) (v : BitVec 5) : (s.writeLens r x n v).dec.framesRead = s.dec.framesRead := by cases r <;> rfl
@[simp] theorem State.writeLens_dec_e8FileSize (r : Record) (x n : Nat) (v : BitVec 5) : (s.writeLens r x n v).dec.e8FileSize = s.dec.e8FileSize := by cases r <;> rfl
@[simp] theorem State.writeLens_dec_e8CurPos (r : Record) (x n : Nat) (v : BitVec 5) : (s.writeLens r x n v).dec.e8CurPos = s.dec.e8CurPos := by cases r <;> rfl
@[simp] theorem State.writeLens_dec_e8Started (r : Record) (x n : Nat) (v : BitVec 5) : (s.writeLens r x n v).dec.e8Started = s.dec.e8Started := by cases r <;> rfl
@[simp] theorem State.writeLens_dec_window (r : Record) (x n : Nat) (v : BitVec 5) : (s.writeLens r x n v).dec.window = s.dec.window := by cases r <;> rfl
@[simp] theorem State.writeLens_dec_written (r : Record) (x n : Nat) (v : BitVec 5) : (s.writeLens r x n v).dec.written = s.dec.written := by cases r <;> rfl
@[simp] theorem State.writeLens_dec_alignedLen (r : Record) (x n : Nat) (v : BitVec 5) : (s.writeLens r x n v).dec.alignedLen = s.dec.alignedLen := by cases r <;> rfl
@[simp] theorem State.writeLens_dec_preLen (r : Record) (x n : Nat) (v : BitVec 5) : (s.writeLens r x n v).dec.preLen = s.dec.preLen := by cases r <;> rfl
@[simp] theorem State.writeLens_dec_preTable (r : Record) (x n : Nat) (v : BitVec 5) : (s.writeLens r x n v).dec.preTable = s.dec.preTable := by cases r <;> rfl
@[simp] theorem State.writeLens_dec_mainTable (r : Record) (x n : Nat) (v : BitVec 5) : (s.writeLens r x n v).dec.mainTable = s.dec.mainTable := by cases r <;> rfl
@[simp] theorem State.writeLens_dec_lengthTable (r : Record) (x n : Nat) (v : BitVec 5) : (s.writeLens r x n v).dec.lengthTable = s.dec.lengthTable := by cases r <;> rfl
@[simp] theorem State.writeLens_dec_alignedTable (r : Record) (x n : Nat) (v : BitVec 5) : (s.writeLens r x n v).dec.alignedTable = s.dec.alignedTable := by cases r <;> rfl
@[simp] theorem State.writeLens_recordLens (r : Record) (x n : Nat) (v : BitVec 5) :
    (s.writeLens r x n v).recordLens r = fillCells (some 0) (s.recordLens r) x n v := by cases r <;> rfl

end Sys2Proof.Machine
end

