-- ==== Sys2Proof/Laws/BitReader.lean ====
section
/-! SUPPORT. The bit reader: what reads answer, when they raise, and that they change the cursor alone. -/

namespace Sys2Proof.Machine

/-! ### 32-bit elements -/

theorem narrow_of_lt {n : Nat} (h : n < 2 ^ 32) : narrow n = BitVec.ofNat 32 n := by
  simp only [narrow, h, if_true]

theorem narrow_toNat {n : Nat} (h : n < 2 ^ 32) : (narrow n).toNat = n := by
  rw [narrow_of_lt h, BitVec.toNat_ofNat, Nat.mod_eq_of_lt h]

theorem narrow_word (w : Word) : narrow w.toNat = w := by
  rw [narrow_of_lt w.isLt]; simp

/-! ### Bits of a segment -/

/-- A bit is a bit of the byte `byteOf` names (R100). -/
theorem segBit_eq (chunk : List Byte) (draw : Nat → Byte) (segBase b : Nat) :
    segBit chunk draw segBase b = (inByte chunk draw (byteOf segBase b)).getLsbD (7 - b % 8) := by
  unfold segBit segWord byteOf
  rw [BitVec.getLsbD_append]
  by_cases h : b % 16 < 8
  · have h1 : ¬ 15 - b % 16 < 8 := by omega
    have h2 : 15 - b % 16 - 8 = 7 - b % 8 := by omega
    simp only [h, h1, h2, if_true, if_false]
  · have h1 : 15 - b % 16 < 8 := by omega
    have h2 : 15 - b % 16 = 7 - b % 8 := by omega
    simp only [h, h1, if_true, if_false, Nat.add_zero]
    rw [h2]

/-- A bit of a real byte does not depend on the draw of phantom bytes. -/
theorem segBit_draw {chunk : List Byte} {segBase b : Nat} (h : byteOf segBase b < chunk.length) (d e : Nat → Byte) :
    segBit chunk d segBase b = segBit chunk e segBase b := by
  simp [segBit_eq, inByte, List.getElem?_eq_getElem h]

theorem firstPhantom_none {inLen segBase : Nat} : ∀ {n b : Nat}, firstPhantom inLen segBase b n = none ↔
    ∀ i, i < n → byteOf segBase (b + i) < inLen
  | 0, b => by simp [firstPhantom]
  | n + 1, b => by
    simp only [firstPhantom]
    split
    · rename_i h
      simp only [reduceCtorEq, false_iff, not_forall, not_lt]
      exact ⟨0, by omega, by simpa using h⟩
    · rename_i h
      rw [firstPhantom_none]
      constructor
      · intro hi i hn
        cases i with
        | zero => simpa using h
        | succ i => have := hi i (by omega); rwa [show b + (i + 1) = b + 1 + i by omega]
      · intro hi i hn
        have := hi (i + 1) (by omega)
        rwa [show b + (i + 1) = b + 1 + i by omega] at this

/-- The first phantom bit is one, and every bit before it is real (R105). -/
theorem firstPhantom_some {inLen segBase : Nat} : ∀ {n b p : Nat}, firstPhantom inLen segBase b n = some p →
    b ≤ p ∧ p < b + n ∧ inLen ≤ byteOf segBase p ∧ ∀ q, b ≤ q → q < p → byteOf segBase q < inLen
  | 0, b, p => by simp [firstPhantom]
  | n + 1, b, p => by
    simp only [firstPhantom]
    split
    · rename_i h
      intro hp
      cases hp
      exact ⟨le_refl _, by omega, h, fun q h1 h2 => by omega⟩
    · rename_i h
      intro hp
      obtain ⟨h1, h2, h3, h4⟩ := firstPhantom_some hp
      refine ⟨by omega, by omega, h3, fun q hq hqp => ?_⟩
      by_cases hb : q = b
      · subst hb; omega
      · exact h4 q (by omega) hqp

/-- Bits of real bytes do not depend on the draw of phantom bytes (R128). -/
theorem segBits_draw {chunk : List Byte} {segBase b : Nat} : ∀ {n : Nat}
    (_ : ∀ i, i < n → byteOf segBase (b + i) < chunk.length) (d e : Nat → Byte),
    segBits chunk d segBase b n = segBits chunk e segBase b n
  | 0, _, _, _ => rfl
  | n + 1, h, d, e => by
    simp only [segBits]
    rw [segBits_draw (fun i hi => h i (by omega)) d e, segBit_draw (h n (by omega)) d e]

theorem segBits_lt {chunk : List Byte} {d : Nat → Byte} {segBase b : Nat} : ∀ n : Nat,
    segBits chunk d segBase b n < 2 ^ n
  | 0 => by simp [segBits]
  | n + 1 => by
    have h1 := segBits_lt (chunk := chunk) (d := d) (segBase := segBase) (b := b) n
    have h2 : (segBit chunk d segBase (b + n)).toNat ≤ 1 := Bool.toNat_le _
    simp only [segBits, Nat.pow_succ]
    omega

/-- A field of `m + n` bits is its first `m` bits, then its last `n`. -/
theorem segBits_add {chunk : List Byte} {d : Nat → Byte} {segBase b m : Nat} : ∀ n : Nat,
    segBits chunk d segBase b (m + n) =
      2 ^ n * segBits chunk d segBase b m + segBits chunk d segBase (b + m) n
  | 0 => by simp [segBits]
  | n + 1 => by
    rw [show m + (n + 1) = m + n + 1 by omega]
    simp only [segBits]
    rw [segBits_add n, show b + m + n = b + (m + n) by omega, Nat.pow_succ]
    ring

/-! ### Fetch, Consume, ReadBits -/

theorem fetchesReal_iff {inLen segBase b n : Nat} : fetchesReal inLen segBase b n = true ↔
    n = 0 ∨ segBase + 2 * ((b + n - 1) / 16) + 1 < inLen := by
  simp [fetchesReal]

theorem canRead_iff {s : State} {n : Nat} : s.canRead n = true ↔
    (∀ i, i < n → byteOf s.cur.segBase.toNat (s.cur.c.toNat + i) < s.chunk.length) ∧
      (s.params.phantomFetch = .fault → fetchesReal s.chunk.length s.cur.segBase.toNat s.cur.c.toNat n = true) ∧
      s.cur.c.toNat + n < 2 ^ 32 := by
  unfold State.canRead
  simp only [Bool.and_eq_true, decide_eq_true_eq, Bool.or_eq_true, firstPhantom_none, and_assoc]
  refine and_congr_right fun _ => and_congr_left fun _ => ?_
  cases s.params.phantomFetch <;> simp

/-- A read of fewer bits is possible where a read of more is. -/
theorem canRead_mono {s : State} {m n : Nat} (h : s.canRead n = true) (hm : m ≤ n) : s.canRead m = true := by
  rw [canRead_iff] at h ⊢
  obtain ⟨h1, h2, h3⟩ := h
  refine ⟨fun i hi => h1 i (by omega), fun hf => ?_, by omega⟩
  have := h2 hf
  rw [fetchesReal_iff] at this ⊢
  omega

@[simp] theorem skip_c {s : State} {n : Nat} (h : s.canRead n = true) :
    (s.skip n).cur.c.toNat = s.cur.c.toNat + n := by
  rw [canRead_iff] at h
  exact narrow_toNat h.2.2

/-- After `m` bits of a readable stretch of `m + n`, `n` bits are readable. -/
theorem canRead_skip {s : State} {m n : Nat} (h : s.canRead (m + n) = true) : (s.skip m).canRead n = true := by
  have hm := canRead_mono h (Nat.le_add_right m n)
  rw [canRead_iff] at h ⊢
  obtain ⟨h1, h2, h3⟩ := h
  rw [skip_c hm]
  refine ⟨fun i hi => ?_, fun hf => ?_, by omega⟩
  · have := h1 (m + i) (by omega)
    rwa [show s.cur.c.toNat + (m + i) = s.cur.c.toNat + m + i by omega] at this
  · have := h2 hf
    rw [fetchesReal_iff] at this ⊢
    simp only [State.skip_chunk, State.skip_cur]
    rw [show s.cur.c.toNat + m + n - 1 = s.cur.c.toNat + (m + n) - 1 by omega]
    omega

/-- What can be read depends on the parameters, the chunk and the cursor alone. -/
theorem canRead_congr {s t : State} (hp : t.params = s.params) (hc : t.chunk = s.chunk) (hu : t.cur = s.cur) (n : Nat) :
    t.canRead n = s.canRead n := by
  unfold State.canRead; rw [hp, hc, hu]

/-- A field depends on the chunk and the cursor alone. -/
theorem field_congr {s t : State} (hc : t.chunk = s.chunk) (hu : t.cur = s.cur) (off n : Nat) :
    t.field off n = s.field off n := by
  unfold State.field; rw [hc, hu]

/-- A field after `m` bits, seen from before them. -/
theorem field_skip {s : State} {m : Nat} (h : s.canRead m = true) (off n : Nat) :
    (s.skip m).field off n = s.field (m + off) n := by
  unfold State.field
  rw [skip_c h, show s.cur.c.toNat + m + off = s.cur.c.toNat + (m + off) by omega]
  rfl

theorem skip_skip {s : State} {m n : Nat} (h : s.canRead m = true) : (s.skip m).skip n = s.skip (m + n) := by
  have hc := skip_c h
  unfold State.skip at hc ⊢
  simp only at hc ⊢
  rw [hc, Nat.add_assoc]

theorem fetchBits_ok {s : State} {n : Nat} (h : s.canRead n = true) : (fetchBits n).run s = .ok () s := by
  rw [canRead_iff] at h
  unfold fetchBits
  rw [M.bind_ok (EStateM.run_get s)]
  cases hp : s.params.phantomFetch with
  | draw => simp
  | fault => simp [h.2.1 hp]

theorem consume_ok {s : State} {n : Nat} (h : s.canRead n = true) : (consume n).run s = .ok () (s.skip n) := by
  rw [canRead_iff] at h
  unfold consume
  rw [M.bind_ok (EStateM.run_get s), firstPhantom_none.2 h.1]
  rfl

/-- ReadBits answers the field at the cursor and moves past it (R103), whatever the draw. -/
theorem readBitsWith_ok {s : State} {n : Nat} (h : s.canRead n = true) (draw : Nat → Byte) :
    (readBitsWith draw n).run s = .ok (s.field 0 n) (s.skip n) := by
  unfold readBitsWith
  rw [M.bind_ok (fetchBits_ok h), M.bind_ok (EStateM.run_get s), M.bind_ok (consume_ok h), EStateM.run_pure]
  rw [canRead_iff] at h
  unfold State.bitsAhead State.field
  rw [segBits_draw h.1 draw noDraw]
  rfl

theorem readBits_ok {s : State} {n : Nat} (h : s.canRead n = true) :
    (readBits n).run s = .ok (s.field 0 n) (s.skip n) := readBitsWith_ok h noDraw

theorem not_canFetch {s : State} {n : Nat} : ¬ s.canFetch n ↔
    s.params.phantomFetch = .fault ∧ fetchesReal s.chunk.length s.cur.segBase.toNat s.cur.c.toNat n = false := by
  unfold State.canFetch
  cases s.params.phantomFetch <;> simp

theorem fetchBits_canFetch {s : State} {n : Nat} (h : s.canFetch n) : (fetchBits n).run s = .ok () s := by
  unfold fetchBits
  rw [M.bind_ok (EStateM.run_get s)]
  rcases h with h | h <;> simp [h]

/-- A fetch of a phantom byte raises at the cursor (R104). -/
theorem fetchBits_raise {s : State} {n : Nat} (h : ¬ s.canFetch n) :
    (fetchBits n).run s =
      .error (.raise .truncatedInput (some (8 * s.cur.segBase.toNat + s.cur.c.toNat))) s := by
  rw [not_canFetch] at h
  unfold fetchBits
  rw [M.bind_ok (EStateM.run_get s)]
  simp [h.1, h.2]

theorem firstPhantom_of_endsAt {inLen segBase : Nat} : ∀ {n b p : Nat}, p < n → inLen ≤ byteOf segBase (b + p) →
    (∀ k, k < p → byteOf segBase (b + k) < inLen) → firstPhantom inLen segBase b n = some (b + p)
  | n + 1, b, 0, _, h, _ => by simp only [firstPhantom, Nat.add_zero] at h ⊢; rw [if_pos h]
  | n + 1, b, p + 1, hn, h, hk => by
    have h0 := hk 0 (by omega)
    rw [firstPhantom, if_neg (by rw [Nat.add_zero] at h0; omega),
      firstPhantom_of_endsAt (p := p) (by omega) (by rwa [show b + 1 + p = b + (p + 1) by omega])
        (fun k hp => by have := hk (k + 1) (by omega); rwa [show b + 1 + k = b + (k + 1) by omega])]
    congr 1
    omega

/-- A field that cannot be read raises TruncatedInput, and nothing is consumed (R104, R105). -/
theorem readBits_raise {s : State} {n pos : Nat} (h : FieldTruncated s n pos) :
    (readBits n).run s = .error (.raise .truncatedInput (some pos)) s := by
  unfold readBits readBitsWith
  rcases h with ⟨h, rfl⟩ | ⟨h, p, hn, ⟨hp, hk⟩, rfl⟩
  · exact M.bind_error (fetchBits_raise h)
  · rw [M.bind_ok (fetchBits_canFetch h), M.bind_ok (EStateM.run_get s)]
    apply M.bind_error
    unfold consume
    rw [M.bind_ok (EStateM.run_get s), firstPhantom_of_endsAt hn hp hk]
    rfl

/-- A symbol of an EMPTY table raises, and nothing is consumed (spec/41_huffman.md R127). -/
theorem decodeSym_empty (s : State) :
    (decodeSym .empty).run s = .error (.raise (.malformedHuffmanTable .emptyTree) none) s := rfl

theorem findCode_none {entries : List CodeEntry} {len code : Nat}
    (h : ∀ e ∈ entries, e.len = len → e.code ≠ code) : findCode entries len code = none := by
  unfold findCode
  rw [List.find?_eq_none.2 fun e he => by
    simp only [decide_eq_true_eq, not_and]
    exact h e he]

/-- Reading bit by bit reaches the first phantom bit where no code is complete before it. -/
theorem walkCode_phantom {entries : List CodeEntry} {chunk : List Byte} {segBase b p : Nat}
    (hp : chunk.length ≤ byteOf segBase (b + p)) (hk : ∀ k, k < p → byteOf segBase (b + k) < chunk.length)
    (he : ∀ e ∈ entries, e.len ≤ p → segBits chunk noDraw segBase b e.len ≠ e.code) :
    ∀ {fuel len : Nat}, len ≤ p → p < len + fuel →
      walkCode entries chunk segBase b fuel len (segBits chunk noDraw segBase b len) = .phantom (b + p)
  | 0, len, h1, h2 => by omega
  | fuel + 1, len, h1, h2 => by
    unfold walkCode
    by_cases hl : len = p
    · subst hl; rw [if_pos hp]
    · have hlt : byteOf segBase (b + len) < chunk.length := hk len (by omega)
      have ih := walkCode_phantom hp hk he (fuel := fuel) (len := len + 1) (by omega) (by omega)
      rw [if_neg (by omega)]
      simp only [segBits] at ih ⊢
      rw [findCode_none fun e hm hlen => ?_]
      · exact ih
      · have := he e hm (by omega)
        rw [hlen, segBits] at this
        exact fun h => this h.symm

/-- A symbol that cannot be decoded for want of bits raises TruncatedInput, and nothing is consumed (spec/41_huffman.md
R126). -/
theorem decodeSym_raise {s : State} {entries : List CodeEntry} {pos : Nat} (h : SymbolTruncated s entries pos) :
    (decodeSym (.codes entries)).run s = .error (.raise .truncatedInput (some pos)) s := by
  unfold decodeSym
  rcases h with ⟨h, rfl⟩ | ⟨h, p, hn, ⟨hp, hk⟩, rfl, he⟩
  · exact M.bind_error (fetchBits_raise h)
  · rw [M.bind_ok (fetchBits_canFetch h), M.bind_ok (EStateM.run_get s)]
    have he' : ∀ e ∈ entries, e.len ≤ p →
        segBits s.chunk noDraw s.cur.segBase.toNat s.cur.c.toNat e.len ≠ e.code := fun e hm hl => by
      have := he e hm hl
      unfold State.field at this
      rwa [BitVec.toNat_ofNat, Nat.add_zero, Nat.mod_eq_of_lt (segBits_lt _)] at this
    have := walkCode_phantom hp hk he' (fuel := 16) (len := 0) (by omega) (by omega)
    simp only [segBits] at this
    rw [this]
    rfl

/-- Everything but the cursor is the same. -/
def OnlyCur (s t : State) : Prop := t = { s with cur := t.cur }

theorem OnlyCur.refl (s : State) : OnlyCur s s := rfl

theorem OnlyCur.trans (a b c : State) (h1 : OnlyCur a b) (h2 : OnlyCur b c) : OnlyCur a c := by
  unfold OnlyCur at *; rw [h2, h1]

theorem OnlyCur.skip (s : State) (n : Nat) : OnlyCur s (s.skip n) := rfl

theorem fetchBits_keeps (n : Nat) : Keeps OnlyCur (fetchBits n) :=
  Keeps.get_bind fun s => by
    split <;> exact OnlyCur.refl s

theorem consume_keeps (n : Nat) : Keeps OnlyCur (consume n) :=
  Keeps.get_bind fun s => by
    split <;> rfl

theorem readBitsWith_keeps (draw : Nat → Byte) (n : Nat) : Keeps OnlyCur (readBitsWith draw n) :=
  Keeps.bind OnlyCur.trans (fetchBits_keeps n) fun _ =>
    Keeps.bind OnlyCur.trans (Keeps.get OnlyCur.refl) fun _ =>
      Keeps.bind OnlyCur.trans (consume_keeps n) fun _ => Keeps.pure OnlyCur.refl _

theorem readBits_keeps (n : Nat) : Keeps OnlyCur (readBits n) := readBitsWith_keeps noDraw n

theorem alignToRaw_keeps : Keeps OnlyCur alignToRaw :=
  Keeps.bind OnlyCur.trans (fetchBits_keeps 16) fun _ => Keeps.modify fun _ => rfl

theorem initBits_keeps : Keeps OnlyCur initBits := Keeps.modify fun _ => rfl

theorem readRawByte_keeps : Keeps OnlyCur readRawByte :=
  Keeps.get_bind fun s => by
    split <;> rfl

theorem readRaw32_keeps : Keeps OnlyCur readRaw32 :=
  Keeps.bind OnlyCur.trans readRawByte_keeps fun _ =>
    Keeps.bind OnlyCur.trans readRawByte_keeps fun _ =>
      Keeps.bind OnlyCur.trans readRawByte_keeps fun _ =>
        Keeps.bind OnlyCur.trans readRawByte_keeps fun _ => Keeps.pure OnlyCur.refl _

theorem decodeSym_keeps (t : DecodeTable) : Keeps OnlyCur (decodeSym t) := by
  cases t with
  | empty => exact Keeps.throw OnlyCur.refl _
  | codes entries =>
    refine Keeps.bind OnlyCur.trans (fetchBits_keeps 16) fun _ => Keeps.get_bind fun s => ?_
    split <;> rfl

/-! ### Raw reads -/

theorem readRawByte_ok {s : State} {n : Nat} (h : s.canReadRaw (n + 1) = true) :
    readRawByte.run s = .ok (s.rawByte 0) (s.skipRaw 1) := by
  simp only [State.canReadRaw, Bool.and_eq_true, decide_eq_true_eq] at h
  have hl : s.cur.inPos.toNat < s.chunk.length := by omega
  unfold readRawByte
  rw [M.bind_ok (EStateM.run_get s), List.getElem?_eq_getElem hl]
  simp only [M.bind_ok (EStateM.run_set _ _), EStateM.run_pure]
  congr 1
  simp [State.rawByte, List.getD_eq_getElem?_getD, List.getElem?_eq_getElem hl]

/-- A raw read past the chunk raises, and nothing is consumed (R107). -/
theorem readRawByte_raise {s : State} (h : s.chunk.length ≤ s.cur.inPos.toNat) :
    readRawByte.run s = .error (.raise .truncatedInput (some (8 * s.cur.inPos.toNat))) s := by
  unfold readRawByte
  rw [M.bind_ok (EStateM.run_get s), List.getElem?_eq_none h]
  rfl

@[simp] theorem skipRaw_inPos {s : State} {n : Nat} (h : s.canReadRaw n = true) :
    (s.skipRaw n).cur.inPos.toNat = s.cur.inPos.toNat + n := by
  simp only [State.canReadRaw, Bool.and_eq_true, decide_eq_true_eq] at h
  exact narrow_toNat h.2

theorem canReadRaw_mono {s : State} {m n : Nat} (h : s.canReadRaw n = true) (hm : m ≤ n) :
    s.canReadRaw m = true := by
  simp only [State.canReadRaw, Bool.and_eq_true, decide_eq_true_eq] at h ⊢
  omega

theorem canReadRaw_skip {s : State} {m n : Nat} (h : s.canReadRaw (m + n) = true) :
    (s.skipRaw m).canReadRaw n = true := by
  have hm := canReadRaw_mono h (Nat.le_add_right m n)
  simp only [State.canReadRaw, Bool.and_eq_true, decide_eq_true_eq] at h ⊢
  rw [skipRaw_inPos hm]
  show _ ≤ s.chunk.length ∧ _
  omega

theorem rawByte_skip {s : State} {m : Nat} (h : s.canReadRaw m = true) (off : Nat) :
    (s.skipRaw m).rawByte off = s.rawByte (m + off) := by
  unfold State.rawByte
  rw [skipRaw_inPos h, Nat.add_assoc]
  rfl

theorem skipRaw_skipRaw {s : State} {m n : Nat} (h : s.canReadRaw m = true) :
    (s.skipRaw m).skipRaw n = s.skipRaw (m + n) := by
  have hc := skipRaw_inPos h
  unfold State.skipRaw at hc ⊢
  simp only at hc ⊢
  rw [hc, Nat.add_assoc]

/-- ReadRaw32 answers the little-endian word at the raw position (R108). -/
theorem readRaw32_ok {s : State} (h : s.canReadRaw 4 = true) :
    readRaw32.run s = .ok (s.rawWord 0) (s.skipRaw 4) := by
  have h1 := canReadRaw_mono h (show 1 ≤ 4 by omega)
  have h2 := canReadRaw_mono h (show 2 ≤ 4 by omega)
  have h3 := canReadRaw_mono h (show 3 ≤ 4 by omega)
  unfold readRaw32
  rw [M.bind_ok (readRawByte_ok (n := 3) h), M.bind_ok (readRawByte_ok (n := 2) (canReadRaw_skip (m := 1) h)),
    skipRaw_skipRaw h1, M.bind_ok (readRawByte_ok (n := 1) (canReadRaw_skip (m := 2) h)), skipRaw_skipRaw h2,
    M.bind_ok (readRawByte_ok (n := 0) (canReadRaw_skip (m := 3) h)), skipRaw_skipRaw h3, EStateM.run_pure,
    rawByte_skip h1, rawByte_skip h2, rawByte_skip h3]
  rfl

end Sys2Proof.Machine
end

