-- ==== Sys2Proof/Laws/Guards.lean ====
section
/-! SUPPORT. The grammar's guards: where they let an operation through, and that they change nothing. -/

namespace Sys2Proof.Machine

theorem betweenCommands_ok {s : State} (h : s.phase = .idle) : betweenCommands.run s = .ok () s := by
  simp [betweenCommands, h]

theorem betweenCommands_eq_ok {s t : State} (h : betweenCommands.run s = .ok () t) : t = s ∧ s.phase = .idle := by
  by_cases hp : s.phase = .idle
  · rw [betweenCommands_ok hp] at h; cases h; exact ⟨rfl, hp⟩
  · simp [betweenCommands, hp] at h

theorem atPhase_ok {s : State} {p : Phase} (h : s.phase = p) : (atPhase p).run s = .ok () s := by
  simp [atPhase, h]

theorem atPhase_eq_ok {s t : State} {p : Phase} (h : (atPhase p).run s = .ok () t) : t = s ∧ s.phase = p := by
  by_cases hp : s.phase = p
  · rw [atPhase_ok hp] at h; cases h; exact ⟨rfl, hp⟩
  · simp [atPhase, hp] at h

theorem inRun_ok {s : State} {ok : BitVec 3 → Bool} (h : s.phase = .runLoop) (hr : 0 < s.run)
    (hb : ok s.dec.blockType = true) : (inRun ok).run s = .ok () s := by
  simp [inRun, h, hr, hb]

theorem inRun_eq_ok {s t : State} {ok : BitVec 3 → Bool} (h : (inRun ok).run s = .ok () t) :
    t = s ∧ s.phase = .runLoop ∧ 0 < s.run ∧ ok s.dec.blockType = true := by
  by_cases hp : s.phase = .runLoop ∧ 0 < s.run ∧ ok s.dec.blockType = true
  · rw [inRun_ok hp.1 hp.2.1 hp.2.2] at h; cases h; exact ⟨rfl, hp⟩
  · simp [inRun, hp] at h

theorem inRecord_ok {s : State} {r : Record} {x : Nat} (h : s.phase = .record r x) (hx : x < r.last s.dec.wb) :
    inRecord.run s = .ok (r, x) s := by
  simp [inRecord, h, hx]

theorem inRecord_eq_ok {s t : State} {q : Record × Nat} (h : inRecord.run s = .ok q t) :
    t = s ∧ s.phase = .record q.1 q.2 ∧ q.2 < q.1.last s.dec.wb := by
  unfold inRecord at h
  rw [M.bind_ok (EStateM.run_get s)] at h
  split at h
  · rename_i r x hp
    split at h
    · rename_i hx; cases h; exact ⟨rfl, hp, hx⟩
    · cases h
  · cases h

theorem atPreLens_ok {s : State} {r : Record} (h : s.phase = .preLens r) : atPreLens.run s = .ok r s := by
  simp [atPreLens, h]

theorem atPreLens_eq_ok {s t : State} {r : Record} (h : atPreLens.run s = .ok r t) : t = s ∧ s.phase = .preLens r := by
  unfold atPreLens at h
  rw [M.bind_ok (EStateM.run_get s)] at h
  split at h
  · rename_i hp; cases h; exact ⟨rfl, hp⟩
  · cases h

theorem atFrameHdr_ok {s : State} {q : SeqRegs} (h : s.phase = .frameHdr) (hq : s.seq = some q) :
    atFrameHdr.run s = .ok q s := by
  simp [atFrameHdr, h, hq]

theorem atFrameHdr_eq_ok {s t : State} {q : SeqRegs} (h : atFrameHdr.run s = .ok q t) :
    t = s ∧ s.phase = .frameHdr ∧ s.seq = some q := by
  unfold atFrameHdr at h
  rw [M.bind_ok (EStateM.run_get s)] at h
  split at h
  · rename_i hp hq; cases h; exact ⟨rfl, hp, hq⟩
  · cases h

/-- What a guard answers, it answers from the state as it was. -/
theorem guards_keep_state :
    (∀ s, M.finalState (betweenCommands.run s) = s) ∧ (∀ p s, M.finalState ((atPhase p).run s) = s) ∧
    (∀ ok s, M.finalState ((inRun ok).run s) = s) ∧ (∀ s, M.finalState (inRecord.run s) = s) ∧
    (∀ s, M.finalState (atPreLens.run s) = s) ∧ ∀ s, M.finalState (atFrameHdr.run s) = s := by
  refine ⟨fun s => ?_, fun p s => ?_, fun ok s => ?_, fun s => ?_, fun s => ?_, fun s => ?_⟩
  · unfold betweenCommands; rw [M.bind_ok (EStateM.run_get s)]; split <;> rfl
  · unfold atPhase; rw [M.bind_ok (EStateM.run_get s)]; split <;> rfl
  · unfold inRun; rw [M.bind_ok (EStateM.run_get s)]; split <;> rfl
  · unfold inRecord; rw [M.bind_ok (EStateM.run_get s)]
    split
    · split <;> rfl
    · rfl
  · unfold atPreLens; rw [M.bind_ok (EStateM.run_get s)]; split <;> rfl
  · unfold atFrameHdr; rw [M.bind_ok (EStateM.run_get s)]; split <;> rfl

end Sys2Proof.Machine
end

