-- ==== Sys2Proof/Laws/Commands.lean ====
section
/-! SUPPORT. Taking a command from the host's port, and what a command reads of what comes with it. -/

namespace Sys2Proof.Machine

section takeCommand

variable (s : State) (c : HostCommand) (rest : List HostCommand)

@[simp] theorem State.takeCommand_params : (s.takeCommand c rest).params = s.params := rfl
@[simp] theorem State.takeCommand_stat : (s.takeCommand c rest).stat = s.stat := rfl
@[simp] theorem State.takeCommand_dec : (s.takeCommand c rest).dec = s.dec := rfl
@[simp] theorem State.takeCommand_cur : (s.takeCommand c rest).cur = s.cur := rfl
@[simp] theorem State.takeCommand_chunk : (s.takeCommand c rest).chunk = s.chunk := rfl
@[simp] theorem State.takeCommand_outLen : (s.takeCommand c rest).outLen = s.outLen := rfl
@[simp] theorem State.takeCommand_togo : (s.takeCommand c rest).togo = s.togo := rfl
@[simp] theorem State.takeCommand_run : (s.takeCommand c rest).run = s.run := rfl
@[simp] theorem State.takeCommand_out : (s.takeCommand c rest).out = s.out := rfl
@[simp] theorem State.takeCommand_seq : (s.takeCommand c rest).seq = s.seq := rfl
@[simp] theorem State.takeCommand_phase : (s.takeCommand c rest).phase = s.phase := rfl
@[simp] theorem State.takeCommand_pending : (s.takeCommand c rest).pending = rest := rfl
@[simp] theorem State.takeCommand_replies : (s.takeCommand c rest).replies = s.replies := rfl

/-- Out of READY, and for a transaction that does not fall short, no free value is used up (log 13). -/
theorem takeCommand_eq {s : State} {c : HostCommand} (h : s.stat.status ≠ .ready ∨ fallsShort c = false)
    (rest : List HostCommand) : s.takeCommand c rest = { s with pending := rest } := by
  unfold State.takeCommand
  rcases h with h | h <;> simp [h]

end takeCommand

/-- A refused word takes nothing, so it never falls short. -/
theorem fallsShort_reserved {c : HostCommand} (h : cmdKind c.word = .reserved) : fallsShort c = false := by
  simp [fallsShort, h]

/-- A transaction of R71 does not fall short. -/
theorem fallsShort_of_wellFormed {c : HostCommand} (h : c.wellFormed = true) : fallsShort c = false := by
  unfold HostCommand.wellFormed at h
  unfold fallsShort
  split at h <;> rename_i hk <;> simp only [hk, reduceCtorEq, decide_true, decide_false, Bool.or_false, Bool.or_true,
    Bool.false_and, Bool.true_and]
  all_goals
    unfold counted at h
    split at h
    · rename_i ho
      simp only [decide_eq_true_eq] at h
      simp [ho, h]
    · cases h

/-- A command takes as many bytes as it asks for. -/
@[simp] theorem commandBytes_length (c : HostCommand) (draw n : Nat) : (commandBytes c draw n).length = n := by
  simp only [commandBytes, List.length_append, List.length_take, List.length_map, List.length_range']
  omega

/-- The bytes the host has supplied are the ones taken. -/
theorem commandBytes_supplied {c : HostCommand} {draw n k : Nat} (hn : k < n) (hk : k < c.bytes.length) :
    (commandBytes c draw n)[k]? = c.bytes[k]? := by
  unfold commandBytes
  rw [List.getElem?_append_left (by rw [List.length_take]; omega), List.getElem?_take_of_lt hn]

/-- Where the host has supplied exactly what is asked for, that is what is taken. -/
theorem commandBytes_exact {c : HostCommand} {draw n : Nat} (h : c.bytes.length = n) : commandBytes c draw n = c.bytes := by
  subst h
  simp [commandBytes]

/-- A step between commands runs the pending command. -/
theorem step_command {s : State} {c : HostCommand} {rest : List HostCommand} (hp : s.phase = .idle)
    (hc : s.pending = c :: rest) : step s = exec (decodeCommand c s.draws) (s.takeCommand c rest) := by
  simp only [step, fetch, hp, fetchCommand, hc, decoded, decode]

end Sys2Proof.Machine
end

