-- ==== Sys2Proof/Laws/Memory.lean ====
section
/-! SUPPORT. Sparse arrays: read after write, and the canonical form. -/

namespace Sys2Proof.Machine

variable {w : Nat} {bg : Option (BitVec w)}

/-- The indices of a canonical array's tail lie above its head. -/
theorem cellsWf_cons {k : Nat} {v : BitVec w} {m : Cells w} :
    cellsWf bg ((k, v) :: m) = true ↔ bg ≠ some v ∧ (∀ c ∈ m, k < c.1) ∧ cellsWf bg m = true := by
  simp [cellsWf, and_assoc]

/-- An index below every listed one reads as unlisted. -/
theorem readCell_below {m : Cells w} {a : Nat} (h : ∀ c ∈ m, a < c.1) : readCell bg m a = bg := by
  induction m with
  | nil => rfl
  | cons c m ih =>
    have hc := h c (by simp)
    have : a ≠ c.1 := by omega
    simp only [readCell, this, if_false]
    exact ih fun d hd => h d (by simp [hd])

/-- Every index a write lists is the written one or was listed. -/
theorem mem_writeCell {m : Cells w} {a : Nat} {v : BitVec w} {c : Nat × BitVec w} (h : c ∈ writeCell bg m a v) :
    c = (a, v) ∨ c ∈ m := by
  induction m with
  | nil => simp only [writeCell] at h; split at h <;> simp_all
  | cons d m ih =>
    simp only [writeCell] at h
    split at h
    · rcases List.mem_cons.1 h with h | h
      · exact .inr (by simp [h])
      · rcases ih h with h | h <;> simp [h]
    · split at h
      · split at h
        · exact .inr (by simp [h])
        · rcases List.mem_cons.1 h with h | h <;> simp [h]
      · split at h
        · exact .inr h
        · rcases List.mem_cons.1 h with h | h <;> simp [h]

/-- A write keeps the canonical form. -/
theorem cellsWf_writeCell {m : Cells w} (h : cellsWf bg m = true) (a : Nat) (v : BitVec w) :
    cellsWf bg (writeCell bg m a v) = true := by
  induction m with
  | nil =>
    simp only [writeCell]
    split
    · rfl
    · simp_all [cellsWf]
  | cons d m ih =>
    obtain ⟨k, u⟩ := d
    obtain ⟨hu, hk, hm⟩ := cellsWf_cons.1 h
    simp only [writeCell]
    split
    · rename_i hka
      refine cellsWf_cons.2 ⟨hu, fun c hc => ?_, ih hm⟩
      rcases mem_writeCell hc with rfl | hc
      · exact hka
      · exact hk c hc
    · split
      · rename_i hka
        subst hka
        split
        · exact hm
        · rename_i hb
          exact cellsWf_cons.2 ⟨hb, hk, hm⟩
      · rename_i h1 h2
        split
        · exact h
        · rename_i hb
          refine cellsWf_cons.2 ⟨hb, fun c hc => ?_, h⟩
          rcases List.mem_cons.1 hc with rfl | hc
          · show a < k; omega
          · have := hk c hc; omega

/-- A read after a write to the same index gives the value written. -/
theorem readCell_writeCell_same {m : Cells w} (h : cellsWf bg m = true) (a : Nat) (v : BitVec w) :
    readCell bg (writeCell bg m a v) a = some v := by
  induction m with
  | nil => simp only [writeCell]; split <;> simp_all [readCell]
  | cons d m ih =>
    obtain ⟨k, u⟩ := d
    obtain ⟨hu, hk, hm⟩ := cellsWf_cons.1 h
    simp only [writeCell]
    split
    · rename_i hka
      have : a ≠ k := by omega
      simp only [readCell, this, if_false]
      exact ih hm
    · split
      · rename_i hka
        subst hka
        split
        · rename_i hb
          rw [readCell_below hk, hb]
        · simp [readCell]
      · split
        · rename_i h1 h2 hb
          rw [readCell_below (fun c hc => ?_), hb]
          rcases List.mem_cons.1 hc with rfl | hc
          · show a < k; omega
          · have := hk c hc; omega
        · simp [readCell]

/-- A write leaves every other index alone. -/
theorem readCell_writeCell_other {m : Cells w} {a b : Nat} (hab : b ≠ a) (v : BitVec w) :
    readCell bg (writeCell bg m a v) b = readCell bg m b := by
  induction m with
  | nil => simp only [writeCell]; split <;> simp [readCell, hab]
  | cons d m ih =>
    obtain ⟨k, u⟩ := d
    simp only [writeCell]
    split
    · simp only [readCell, ih]
    · split
      · rename_i h2
        subst h2
        split <;> simp [readCell, hab]
      · split <;> simp [readCell, hab]

/-- A fill keeps the canonical form. -/
theorem cellsWf_fillCells (n : Nat) : ∀ {m : Cells w} (_ : cellsWf bg m = true) (x : Nat) (v : BitVec w),
    cellsWf bg (fillCells bg m x n v) = true := by
  induction n with
  | zero => exact fun h _ _ => h
  | succ n ih => exact fun h x v => ih (cellsWf_writeCell h x v) (x + 1) v

/-- What a fill leaves: the filled entries hold the value, the others what they held. -/
theorem readCell_fillCells (n : Nat) : ∀ {m : Cells w} (_ : cellsWf bg m = true) (x : Nat) (v : BitVec w) (a : Nat),
    readCell bg (fillCells bg m x n v) a = if x ≤ a ∧ a < x + n then some v else readCell bg m a := by
  induction n with
  | zero => intro m _ x v a; rw [if_neg (by omega)]; rfl
  | succ n ih =>
    intro m h x v a
    show readCell bg (fillCells bg (writeCell bg m x v) (x + 1) n v) a = _
    rw [ih (cellsWf_writeCell h x v)]
    by_cases hax : a = x
    · subst hax
      rw [if_neg (by omega), if_pos (by omega), readCell_writeCell_same h]
    · rw [readCell_writeCell_other hax]
      by_cases hc : x + 1 ≤ a ∧ a < x + 1 + n
      · rw [if_pos hc, if_pos (by omega)]
      · rw [if_neg hc, if_neg (by omega)]

/-- Every entry a fill lists is one of the filled ones or was listed. -/
theorem mem_fillCells (n : Nat) : ∀ {m : Cells w} {x : Nat} {v : BitVec w} {c : Nat × BitVec w}
    (_ : c ∈ fillCells bg m x n v), (x ≤ c.1 ∧ c.1 < x + n ∧ c.2 = v) ∨ c ∈ m := by
  induction n with
  | zero => exact fun h => .inr h
  | succ n ih =>
    intro m x v c h
    rcases ih h with ⟨h1, h2, h3⟩ | h
    · exact .inl ⟨by omega, by omega, h3⟩
    · rcases mem_writeCell h with rfl | h
      · exact .inl ⟨le_refl _, by simp, rfl⟩
      · exact .inr h

/-- Power-on memory has the canonical form. -/
theorem reset_memory_wf : Memory.wf State.reset.params State.reset.dec.window = true := rfl

/-- The byte a window write leaves at `window_pos`. -/
theorem windowByte_putByte_same {s : State} (h : Memory.wf s.params s.dec.window = true) (v : Byte) :
    (s.putByte v).windowByte s.dec.windowPos.toNat = some v := readCell_writeCell_same h _ _

/-- A window write leaves every other byte alone. -/
theorem windowByte_putByte_other {s : State} {a : Nat} (h : a ≠ s.dec.windowPos.toNat) (v : Byte) :
    (s.putByte v).windowByte a = s.windowByte a := readCell_writeCell_other h _

/-- A window write keeps the canonical form. -/
theorem putByte_memory_wf {s : State} (h : Memory.wf s.params s.dec.window = true) (v : Byte) :
    Memory.wf (s.putByte v).params (s.putByte v).dec.window = true := cellsWf_writeCell h _ _

end Sys2Proof.Machine
end

