-- ==== Sys2Proof/Laws/Lengths.lean ====
section
/-! SUPPORT. Length arrays: the fixed-width length fields, their tables, and what a tree-length record writes. -/

namespace Sys2Proof.Machine

/-! ### Fixed-width length fields (spec/43_block_headers.md R189, R190) -/

/-- From field `i` on, `n` aligned lengths are read and written at their indices. -/
theorem readAlignedLens_ok {s : State} (m : Cells 3) : ∀ {n i : Nat}, s.canRead (3 * (i + n)) = true →
    (readAlignedLens i n).run { s.skip (3 * i) with dec := { s.dec with alignedLen := s.fieldCells m i } } =
      .ok () { s.skip (3 * (i + n)) with dec := { s.dec with alignedLen := s.fieldCells m (i + n) } }
  | 0, i, _ => rfl
  | n + 1, i, h => by
    have hi := canRead_mono h (show 3 * i ≤ 3 * (i + (n + 1)) by omega)
    have h3 : ({ s.skip (3 * i) with dec := { s.dec with alignedLen := s.fieldCells m i } } : State).canRead 3 = true :=
      (canRead_congr (s := s.skip (3 * i)) rfl rfl rfl 3).trans
        (canRead_skip (canRead_mono h (show 3 * i + 3 ≤ 3 * (i + (n + 1)) by omega)))
    unfold readAlignedLens
    refine (M.bind_ok (a := s.field (3 * i) 3)
      (t := { s.skip (3 * (i + 1)) with dec := { s.dec with alignedLen := s.fieldCells m i } }) ?_).trans ?_
    · refine (readBits_ok h3).trans ?_
      have hc := congrArg State.cur (skip_skip (n := 3) hi)
      congr 1
      · exact (field_congr (s := s.skip (3 * i)) rfl rfl 0 3).trans (field_skip hi 0 3)
      · exact congrArg (fun c => ({ s with cur := c, dec := { s.dec with alignedLen := s.fieldCells m i } } : State)) hc
    · have ih := readAlignedLens_ok m (n := n) (i := i + 1) (by rwa [show i + 1 + n = i + (n + 1) by omega])
      rw [show i + 1 + n = i + (n + 1) by omega] at ih
      exact ih

/-- From field `i` on, `n` pre-tree lengths are read and written at their indices. -/
theorem readPreLens_ok {s : State} (m : Cells 4) : ∀ {n i : Nat}, s.canRead (4 * (i + n)) = true →
    (readPreLens i n).run { s.skip (4 * i) with dec := { s.dec with preLen := s.fieldCells m i } } =
      .ok () { s.skip (4 * (i + n)) with dec := { s.dec with preLen := s.fieldCells m (i + n) } }
  | 0, i, _ => rfl
  | n + 1, i, h => by
    have hi := canRead_mono h (show 4 * i ≤ 4 * (i + (n + 1)) by omega)
    have h4 : ({ s.skip (4 * i) with dec := { s.dec with preLen := s.fieldCells m i } } : State).canRead 4 = true :=
      (canRead_congr (s := s.skip (4 * i)) rfl rfl rfl 4).trans
        (canRead_skip (canRead_mono h (show 4 * i + 4 ≤ 4 * (i + (n + 1)) by omega)))
    unfold readPreLens
    refine (M.bind_ok (a := s.field (4 * i) 4)
      (t := { s.skip (4 * (i + 1)) with dec := { s.dec with preLen := s.fieldCells m i } }) ?_).trans ?_
    · refine (readBits_ok h4).trans ?_
      have hc := congrArg State.cur (skip_skip (n := 4) hi)
      congr 1
      · exact (field_congr (s := s.skip (4 * i)) rfl rfl 0 4).trans (field_skip hi 0 4)
      · exact congrArg (fun c => ({ s with cur := c, dec := { s.dec with preLen := s.fieldCells m i } } : State)) hc
    · have ih := readPreLens_ok m (n := n) (i := i + 1) (by rwa [show i + 1 + n = i + (n + 1) by omega])
      rw [show i + 1 + n = i + (n + 1) by omega] at ih
      exact ih

theorem skip_zero (s : State) : s.skip 0 = s := by
  unfold State.skip
  rw [Nat.add_zero, narrow_word]

/-- Eight aligned lengths, from the cursor on (R189). -/
theorem readAlignedLens_eight {s : State} (h : s.canRead 24 = true) :
    (readAlignedLens 0 8).run s =
      .ok () { s.skip 24 with dec := { s.dec with alignedLen := s.fieldCells s.dec.alignedLen 8 } } := by
  have := readAlignedLens_ok (s := s) s.dec.alignedLen (n := 8) (i := 0) h
  rwa [show (3 * 0) = 0 from rfl, skip_zero] at this

/-- Twenty pre-tree lengths, from the cursor on (R190). -/
theorem readPreLens_twenty {s : State} (h : s.canRead 80 = true) :
    (readPreLens 0 20).run s =
      .ok () { s.skip 80 with dec := { s.dec with preLen := s.fieldCells s.dec.preLen 20 } } := by
  have := readPreLens_ok (s := s) s.dec.preLen (n := 20) (i := 0) h
  rwa [show (4 * 0) = 0 from rfl, skip_zero] at this

/-- What the fields leave: canonical, field `k` at index `k`, the rest as before. -/
theorem fieldCells_spec {w : Nat} (s : State) {m : Cells w} (hm : cellsWf (some 0) m = true) : ∀ n : Nat,
    cellsWf (some 0) (s.fieldCells m n) = true ∧
      ∀ k, lenAt (s.fieldCells m n) k = if k < n then s.field (w * k) w else lenAt m k
  | 0 => ⟨hm, fun k => by simp [State.fieldCells]⟩
  | n + 1 => by
    obtain ⟨h1, h2⟩ := fieldCells_spec s hm n
    refine ⟨cellsWf_writeCell h1 _ _, fun k => ?_⟩
    by_cases hk : k = n
    · subst hk
      rw [if_pos (by omega), lenAt, State.fieldCells, readCell_writeCell_same h1]; rfl
    · have := h2 k
      unfold lenAt at this ⊢
      rw [State.fieldCells, readCell_writeCell_other hk, this]
      by_cases h : k < n
      · rw [if_pos h, if_pos (by omega)]
      · rw [if_neg h, if_neg (by omega)]

/-! ### Build -/

theorem build_ok {w : Nat} {m : Cells w} {n : Nat} {t : DecodeTable} {s : State}
    (h : buildTable (codeLens m n) = .ok t) : (build m n).run s = .ok t s := by
  unfold build; rw [h]; rfl

theorem build_raise {w : Nat} {m : Cells w} {n : Nat} {c : TableCause} {s : State}
    (h : buildTable (codeLens m n) = .error c) :
    (build m n).run s = .error (.raise (.malformedHuffmanTable c) none) s := by
  unfold build; rw [h]; rfl

/-! ### What a record element writes -/

theorem recordLens_wf {s : State} (h : MemoryCanonical s) (r : Record) : cellsWf (some 0) (s.recordLens r) = true := by
  cases r
  · exact h.2.1
  · exact h.2.1
  · exact h.2.2.1

@[simp] theorem setRecordLens_recordLens (s : State) (m : Cells 5) (r : Record) :
    (s.setRecordLens m r).recordLens r = m := by cases r <;> rfl

/-- The entries from `x` on take the value, the others keep theirs. -/
theorem lenAt_writeLens {s : State} (h : MemoryCanonical s) (r : Record) (x n : Nat) (v : BitVec 5) (y : Nat) :
    lenAt ((s.writeLens r x n v).recordLens r) y =
      if x ≤ y ∧ y < x + n then v else lenAt (s.recordLens r) y := by
  have e : (s.writeLens r x n v).recordLens r = fillCells (some 0) (s.recordLens r) x n v := by cases r <;> rfl
  rw [e, lenAt, readCell_fillCells n (recordLens_wf h r)]
  split <;> rfl

/-- `(len - z) mod 17` as integers (spec/30_encoding.md R82). -/
theorem deltaLen_toNat (l : BitVec 5) (z : Nat) : ((deltaLen l z).toNat : Int) = ((l.toNat : Int) - z) % 17 := by
  unfold deltaLen
  have h0 := Int.emod_nonneg ((l.toNat : Int) - z) (show (17 : Int) ≠ 0 by omega)
  have h1 := Int.emod_lt_of_pos ((l.toNat : Int) - z) (show (0 : Int) < 17 by omega)
  rw [BitVec.toNat_ofNat, Nat.mod_eq_of_lt (by omega)]
  omega

/-- DecodeSym moves the cursor alone. -/
theorem decodeSym_onlyCur {t : DecodeTable} {s u : State} {z : Nat} (h : (decodeSym t).run s = .ok z u) :
    OnlyCur s u := by
  have := decodeSym_keeps t s
  rwa [h] at this

end Sys2Proof.Machine
end

