-- ==== Sys2Proof/Laws/Window.lean ====
section
/-! SUPPORT. The window: single reads and writes, the copy of a match, the frame output's reads. -/

namespace Sys2Proof.Machine

theorem windowSize_pos (wb : BitVec 5) : 0 < windowSize wb := Nat.pow_pos (by omega)

theorem windowSize_le {s : State} (h : WindowInRange s) : windowSize s.dec.wb ≤ 2 ^ 21 :=
  Nat.pow_le_pow_right (by omega) h.2.1

/-! ### One byte -/

theorem winWrite_ok {s : State} (h : s.dec.windowPos.toNat < windowSize s.dec.wb) (v : Byte) :
    (winWrite v).run s = .ok () (s.putByte v) := by
  have h' : ¬ windowSize s.dec.wb ≤ s.dec.windowPos.toNat := by omega
  unfold winWrite
  rw [M.bind_ok (EStateM.run_get s)]
  simp [h']

theorem winRead_ok {s : State} {a : Nat} (h : a < windowSize s.dec.wb) {v : Byte} (hv : s.windowByte a = some v) :
    (winRead a).run s = .ok v s := by
  have h' : ¬ windowSize s.dec.wb ≤ a := by omega
  unfold winRead
  rw [M.bind_ok (EStateM.run_get s)]
  simp [h', hv]

/-- A read of a byte that nothing has written raises UnwrittenWindowRead (spec/20_memory.md R56). -/
theorem winRead_unwritten {s : State} {a : Nat} (h : a < windowSize s.dec.wb) (hv : s.windowByte a = none) :
    (winRead a).run s = .error (.raise .unwrittenWindowRead none) s := by
  have h' : ¬ windowSize s.dec.wb ≤ a := by omega
  unfold winRead
  rw [M.bind_ok (EStateM.run_get s)]
  simp [h', hv]

theorem winRead_state {s : State} (a : Nat) : M.finalState ((winRead a).run s) = s := by
  unfold winRead
  rw [M.bind_ok (EStateM.run_get s)]
  by_cases h : windowSize s.dec.wb ≤ a
  · simp [h]
  · cases s.windowByte a <;> simp [h]

/-! ### The address behind the write cursor -/

theorem behind_lt (s : State) (k : Nat) : s.behind k < windowSize s.dec.wb := by
  have h := windowSize_pos s.dec.wb
  unfold State.behind
  have h2 := Int.emod_lt_of_pos ((s.dec.windowPos.toNat : Int) - k) (Int.natCast_pos.2 h)
  omega

/-- An address of a position `k` of at most WS + window_pos bytes behind: before the cursor, or wrapped once. -/
theorem behind_eq {s : State} {k : Nat} (hp : s.dec.windowPos.toNat < windowSize s.dec.wb) (hk : k ≤ windowSize s.dec.wb) :
    s.behind k = if k ≤ s.dec.windowPos.toNat then s.dec.windowPos.toNat - k
      else s.dec.windowPos.toNat + windowSize s.dec.wb - k := by
  unfold State.behind
  split
  · rw [Int.emod_eq_of_lt (by omega) (by omega)]; omega
  · rw [← Int.add_emod_right, Int.emod_eq_of_lt (by omega) (by omega)]; omega

/-- A position at the cursor, or `k` bytes behind it for `k` below WS, is the cursor's only for `k = 0`. -/
theorem behind_ne {s : State} {k : Nat} (hp : s.dec.windowPos.toNat < windowSize s.dec.wb) (h1 : 1 ≤ k)
    (hk : k < windowSize s.dec.wb) : s.behind k ≠ s.dec.windowPos.toNat := by
  rw [behind_eq hp (by omega)]; split <;> omega

theorem putByte_windowPos {s : State} (hs : s.dec.windowPos.toNat + 1 < 2 ^ 22) (v : Byte) :
    (s.putByte v).dec.windowPos.toNat = s.dec.windowPos.toNat + 1 := by
  show (s.dec.windowPos + 1).toNat = _
  rw [BitVec.toNat_add]
  exact Nat.mod_eq_of_lt hs

/-- One more write moves every position behind the cursor by one. -/
theorem behind_putByte {s : State} (hs : s.dec.windowPos.toNat + 1 < 2 ^ 22) (v : Byte) (k : Nat) :
    (s.putByte v).behind (k + 1) = s.behind k := by
  unfold State.behind
  rw [putByte_windowPos hs]
  show ((((s.dec.windowPos.toNat + 1 : Nat) : Int) - (k + 1 : Nat)) % windowSize s.dec.wb).toNat = _
  congr 2
  omega

/-- Bytes behind the cursor that hold a value still do after a write, and the written one does. -/
theorem covered_putByte {s : State} {n : Nat} (hw : Memory.wf s.params s.dec.window = true)
    (hp : s.dec.windowPos.toNat < windowSize s.dec.wb) (hs : s.dec.windowPos.toNat + 1 < 2 ^ 22) (v : Byte)
    (hc : ∀ k, 1 ≤ k → k ≤ n → (s.windowByte (s.behind k)).isSome = true) :
    ∀ k, 1 ≤ k → k ≤ n + 1 → ((s.putByte v).windowByte ((s.putByte v).behind k)).isSome = true := by
  intro k h1 hk
  obtain ⟨j, rfl⟩ : ∃ j, k = j + 1 := ⟨k - 1, by omega⟩
  rw [behind_putByte hs]
  by_cases hj : s.behind j = s.dec.windowPos.toNat
  · rw [hj, windowByte_putByte_same hw]; rfl
  · rw [windowByte_putByte_other hj]
    have : j ≠ 0 := by
      rintro rfl
      exact hj (by rw [behind_eq hp (Nat.zero_le _)]; simp)
    exact hc j (by omega) (by omega)

/-! ### The copy of a match -/

/-- What `n` bytes of the copy leave. -/
def CopyLeaves (s : State) (n : Nat) (offset : Nat) (t : State) : Prop :=
  (∃ window, t =
    { s with
      dec :=
        { s.dec with
          window := window
          written := min (s.dec.written + n) (windowSize s.dec.wb)
          windowPos := s.dec.windowPos + BitVec.ofNat 22 n } }) ∧
    (∀ i, i < n →
      t.windowByte (s.dec.windowPos.toNat + i) =
        if i < offset then s.windowByte (s.behind (offset - i))
        else t.windowByte (s.dec.windowPos.toNat + i - offset)) ∧
    (∀ a, a < s.dec.windowPos.toNat ∨ s.dec.windowPos.toNat + n ≤ a → t.windowByte a = s.windowByte a) ∧
    Memory.wf t.params t.dec.window = true

/-- The copy answers, and does what R215 says, where its bytes fit below the window's end and its sources are there. -/
theorem copyBytes_ok {offset : Nat} (ho : 0 < offset) : ∀ {n : Nat} {s : State},
    WindowInRange s → Memory.wf s.params s.dec.window = true →
    s.dec.windowPos.toNat + n ≤ windowSize s.dec.wb → offset ≤ windowSize s.dec.wb →
    (∀ k, 1 ≤ k → k ≤ offset → (s.windowByte (s.behind k)).isSome = true) →
    ∃ t, (copyBytes offset n).run s = .ok () t ∧ CopyLeaves s n offset t
  | 0, s, hr, hw, _, _, _ => by
    refine ⟨s, rfl, ⟨s.dec.window, ?_⟩, fun i hi => absurd hi (by omega), fun _ _ => rfl, hw⟩
    have : min (s.dec.written + 0) (windowSize s.dec.wb) = s.dec.written := by
      have := hr.2.2.2.1; omega
    rw [this]; simp
  | n + 1, s, hr, hw, hn, hoff, hc => by
    have hle := windowSize_le hr
    have hp : s.dec.windowPos.toNat < windowSize s.dec.wb := by omega
    have hs : s.dec.windowPos.toNat + 1 < 2 ^ 22 := by omega
    obtain ⟨v, hv⟩ := Option.isSome_iff_exists.1 (hc offset ho (le_refl _))
    have hwr := putByte_windowPos hs v
    have hr' : WindowInRange (s.putByte v) := by
      refine ⟨hr.1, hr.2.1, ?_, ?_, hr.2.2.2.2⟩
      · rw [hwr]; show _ ≤ windowSize s.dec.wb; omega
      · exact Nat.min_le_right _ _
    obtain ⟨t, ht, ⟨w, hwt⟩, hb, ho', hwf⟩ := copyBytes_ok ho (n := n) hr' (putByte_memory_wf hw v)
      (by rw [hwr]; show _ ≤ windowSize s.dec.wb; omega) hoff
      (fun k h1 hk => covered_putByte (n := offset) hw hp hs v hc k h1 (by omega))
    have hother : ∀ a, a ≠ s.dec.windowPos.toNat → (s.putByte v).windowByte a = s.windowByte a :=
      fun a ha => windowByte_putByte_other ha v
    have ht0 : t.windowByte s.dec.windowPos.toNat = some v := by
      rw [ho' _ (.inl (by rw [hwr]; omega))]
      exact windowByte_putByte_same hw v
    refine ⟨t, ?_, ⟨w, ?_⟩, fun i hi => ?_, fun a ha => ?_, hwf⟩
    · unfold copyBytes
      rw [M.bind_ok (EStateM.run_get s)]
      show (winRead (s.behind offset) >>= _).run s = _
      rw [M.bind_ok (winRead_ok (behind_lt s offset) hv), M.bind_ok (winWrite_ok hp v)]
      exact ht
    · rw [hwt]
      have e1 : (s.dec.windowPos + 1) + BitVec.ofNat 22 n = s.dec.windowPos + BitVec.ofNat 22 (n + 1) := by
        rw [BitVec.add_assoc, BitVec.add_comm 1]
        congr 1
        rw [BitVec.ofNat_add]
        rfl
      have e2 : min (min (s.dec.written + 1) (windowSize s.dec.wb) + n) (windowSize s.dec.wb) =
          min (s.dec.written + (n + 1)) (windowSize s.dec.wb) := by omega
      show ({ (s.putByte v) with dec := _ } : State) = _
      simp only [State.putByte] at e1 e2 ⊢
      rw [e1, e2]
    · cases i with
      | zero => rw [Nat.add_zero, ht0, if_pos ho, Nat.sub_zero, hv]
      | succ j =>
        have := hb j (by omega)
        rw [hwr] at this
        rw [show s.dec.windowPos.toNat + (j + 1) = s.dec.windowPos.toNat + 1 + j by omega, this]
        by_cases hj : j + 1 < offset
        · rw [if_pos (by omega), if_pos hj, show offset - j = offset - (j + 1) + 1 by omega, behind_putByte hs,
            hother _ (behind_ne hp (by omega) (by omega))]
        · by_cases hj' : j < offset
          · rw [if_pos hj', if_neg hj, show offset - j = 0 + 1 by omega, behind_putByte hs,
              show s.behind 0 = s.dec.windowPos.toNat by rw [behind_eq hp (Nat.zero_le _)]; simp,
              show s.dec.windowPos.toNat + 1 + j - offset = s.dec.windowPos.toNat by omega, ht0]
            exact windowByte_putByte_same hw v
          · rw [if_neg hj', if_neg hj]
    · rw [ho' a (by rw [hwr]; omega)]
      exact hother a (by omega)

/-! ### Reading the output -/

/-- Reading `n` bytes that are there answers them, and changes nothing (spec/42_commands.md R146). -/
theorem readBytes_ok : ∀ {n : Nat} {s : State} {a : Nat}, a + n ≤ windowSize s.dec.wb →
    (∀ i, i < n → (s.windowByte (a + i)).isSome = true) →
    ∃ bs, (readBytes a n).run s = .ok bs s ∧ bs.length = n ∧ ∀ i, i < n → bs[i]? = s.windowByte (a + i)
  | 0, s, a, _, _ => ⟨[], rfl, rfl, fun i hi => absurd hi (by omega)⟩
  | n + 1, s, a, ha, hs => by
    obtain ⟨v, hv⟩ := Option.isSome_iff_exists.1 (hs 0 (by omega))
    obtain ⟨bs, h1, h2, h3⟩ := readBytes_ok (n := n) (s := s) (a := a + 1) (by omega) (fun i hi => by
      have := hs (i + 1) (by omega)
      rwa [show a + (i + 1) = a + 1 + i by omega] at this)
    refine ⟨v :: bs, ?_, by simp [h2], fun i hi => ?_⟩
    · unfold readBytes
      rw [M.bind_ok (winRead_ok (by omega) (by simpa using hv)), M.bind_ok h1]
      rfl
    · cases i with
      | zero => simp [← hv]
      | succ i => rw [show a + (i + 1) = a + 1 + i by omega, ← h3 i (by omega)]; rfl

theorem readBytes_state : ∀ (n : Nat) (s : State) (a : Nat), M.finalState ((readBytes a n).run s) = s
  | 0, _, _ => rfl
  | n + 1, s, a => by
    unfold readBytes
    have h := winRead_state (s := s) a
    rw [EStateM.run_bind]
    cases hm : (winRead a).run s with
    | error e t => rw [hm] at h; exact h
    | ok v t =>
      rw [hm] at h
      rw [show t = s from h]
      show M.finalState ((readBytes (a + 1) n >>= fun rest => pure (v :: rest)).run s) = s
      have h2 := readBytes_state n s (a + 1)
      rw [EStateM.run_bind]
      cases hm2 : (readBytes (a + 1) n).run s with
      | error e t => rw [hm2] at h2; exact h2
      | ok bs t => rw [hm2] at h2; exact h2

end Sys2Proof.Machine
end

