-- ==== Sys2Proof/Laws/Matches.lean ====
section
/-! SUPPORT. Matches: the checks, the copy, and the offset step of each slot. -/

namespace Sys2Proof.Machine

/-- A legal match passes the checks (spec/44_symbols.md R213, R214). -/
theorem checkMatch_ok {s : State} {length : Nat} {offset : Word} (h : MatchLegal s length offset) :
    (checkMatch length offset.toNat).run s = .ok () s := by
  obtain ⟨h1, h2, h3, h4, h5, -⟩ := h
  have e1 : ¬ windowSize s.dec.wb < s.dec.windowPos.toNat + length := by omega
  have e2 : ¬ s.run < length := by omega
  have e3 : ¬ offset.toNat = 0 := by omega
  have e4 : ¬ windowSize s.dec.wb < offset.toNat := by omega
  have e5 : ¬ (s.params.windowInit = .unspecified ∧ s.dec.written < offset.toNat) := fun ⟨hu, hw⟩ => by
    have := h5 hu; omega
  unfold checkMatch
  rw [M.bind_ok (EStateM.run_get s)]
  simp only [e1, e2, e3, e4, e5, if_false]
  rfl

/-- The check that fails raises its error (R213, R214). -/
theorem checkMatch_raise {s : State} {length : Nat} {offset : Word} {e : Err} (h : MatchFails s length offset e) :
    (checkMatch length offset.toNat).run s = .error (.raise e none) s := by
  unfold MatchFails at h
  unfold checkMatch
  rw [M.bind_ok (EStateM.run_get s)]
  split at h
  · rename_i h1; subst h; simp [h1]
  rename_i h1
  split at h
  · rename_i h2; subst h; simp [h1, h2]
  rename_i h2
  split at h
  · rename_i h3; subst h; simp [h1, h2, h3]
  rename_i h3
  split at h
  · rename_i h4; subst h; simp only [h1, h2, h3, h4, if_true, if_false]; rfl
  rename_i h4
  obtain ⟨h5, h6, rfl⟩ := h
  simp only [h1, h2, h3, h4, h5, h6, if_false]
  rfl

/-- The checks look at the window registers, the run and the parameters alone. -/
theorem MatchFails.congr {s t : State} {length : Nat} {offset : Word} {e : Err} (hp : t.params = s.params)
    (hr : t.run = s.run) (hb : t.dec.wb = s.dec.wb) (hw : t.dec.windowPos = s.dec.windowPos)
    (hn : t.dec.written = s.dec.written) (h : MatchFails s length offset e) : MatchFails t length offset e := by
  unfold MatchFails at h ⊢
  rwa [hp, hr, hb, hw, hn]

/-- A match that fails a check ends with nothing copied. -/
theorem finishMatch_raise {s : State} {length : Nat} {offset : Word} {e : Err} (h : MatchFails s length offset e) :
    (finishMatch length offset).run s = .error (.raise e none) s := M.bind_error (checkMatch_raise h)

/-- A new offset is inserted before the checks (R216). -/
theorem matchNew_raise {s : State} {length offset : Nat} {w : Word} {e : Err} (hw : w.toNat = offset)
    (h : MatchFails s length w e) : (matchNew length offset).run s = .error (.raise e none) (s.inserted w) := by
  have hn : narrow offset = w := by rw [← hw, narrow_word]
  unfold matchNew
  rw [hn, M.bind_ok (EStateM.run_modify _ _)]
  exact finishMatch_raise (h.congr (t := s.pushOffset w) rfl rfl rfl rfl rfl)

/-- The checks answer from the state as it was, or raise in it. -/
theorem checkMatch_state (length offset : Nat) (s : State) :
    M.finalState ((checkMatch length offset).run s) = s := by
  unfold checkMatch
  rw [M.bind_ok (EStateM.run_get s)]
  by_cases e1 : windowSize s.dec.wb < s.dec.windowPos.toNat + length
  · simp [e1]
  by_cases e2 : s.run < length
  · simp [e1, e2]
  by_cases e3 : offset = 0
  · simp [e1, e2, e3]
  by_cases e4 : windowSize s.dec.wb < offset
  · simp [e1, e2, e3, e4]
  by_cases e5 : s.params.windowInit = .unspecified ∧ s.dec.written < offset <;> simp [e1, e2, e3, e4, e5]

/-- A legal match copies its bytes and leaves what R215 says. -/
theorem finishMatch_ok {s : State} {length : Nat} {offset : Word} (hr : WindowInRange s) (hm : MemoryCanonical s)
    (h : MatchLegal s length offset) :
    ∃ t, (finishMatch length offset).run s = .ok () t ∧ MatchLeaves s length offset t := by
  obtain ⟨h1, -, h3, h4, -, h6⟩ := id h
  obtain ⟨t, ht, ⟨w, hw⟩, hb, ho, -⟩ := copyBytes_ok h3 hr hm.1 h1 h4 h6
  refine ⟨t.spendRun length, ?_, ⟨w, by rw [hw]⟩, hb, ho⟩
  unfold finishMatch
  rw [M.bind_ok (checkMatch_ok h), M.bind_ok ht]
  rfl

/-- A legal match of a new offset. -/
theorem matchNew_ok {s : State} {length offset : Nat} {w : Word} (hw : w.toNat = offset) (hr : WindowInRange s)
    (hm : MemoryCanonical s) (h : MatchLegal s length w) :
    ∃ t, (matchNew length offset).run s = .ok () t ∧ MatchLeaves (s.pushOffset w) length w t := by
  have hn : narrow offset = w := by rw [← hw, narrow_word]
  obtain ⟨t, ht, hl⟩ := finishMatch_ok (s := s.pushOffset w) hr hm h
  refine ⟨t, ?_, hl⟩
  unfold matchNew
  rw [hn, M.bind_ok (EStateM.run_modify _ _)]
  exact ht

theorem matchR0_ok {s : State} {length : Nat} (hr : WindowInRange s) (hm : MemoryCanonical s)
    (h : MatchLegal s length s.dec.r0) :
    ∃ t, (matchR0 length).run s = .ok () t ∧ MatchLeaves s length s.dec.r0 t := finishMatch_ok hr hm h

theorem matchR1_ok {s : State} {length : Nat} (hr : WindowInRange s) (hm : MemoryCanonical s)
    (h : MatchLegal s length s.dec.r1) :
    ∃ t, (matchR1 length).run s = .ok () t ∧ MatchLeaves s.swapR1 length s.dec.r1 t :=
  finishMatch_ok (s := s.swapR1) hr hm h

theorem matchR2_ok {s : State} {length : Nat} (hr : WindowInRange s) (hm : MemoryCanonical s)
    (h : MatchLegal s length s.dec.r2) :
    ∃ t, (matchR2 length).run s = .ok () t ∧ MatchLeaves s.swapR2 length s.dec.r2 t :=
  finishMatch_ok (s := s.swapR2) hr hm h

/-- Slots 4 to 49 with all their offset bits read at once. -/
theorem matchVerb_ok {s : State} {slot length : Nat} {w : Word} (hc : s.canRead (extraBits slot) = true)
    (hw : w.toNat = verbOffset slot (s.field 0 (extraBits slot)).toNat) (hr : WindowInRange s)
    (hm : MemoryCanonical s) (h : MatchLegal s length w) :
    ∃ t, (matchVerb slot length).run s = .ok () t ∧
      MatchLeaves ((s.skip (extraBits slot)).pushOffset w) length w t := by
  obtain ⟨t, ht, hl⟩ := matchNew_ok (s := s.skip (extraBits slot)) hw hr hm h
  refine ⟨t, ?_, hl⟩
  unfold matchVerb
  rw [M.bind_ok (readBits_ok hc)]
  exact ht

/-- Slots 4 to 49 in an ALIGNED block, by their number of extra bits (R210). -/
theorem matchAlgn_eq (slot length : Nat) :
    matchAlgn slot length =
      if 3 < extraBits slot then
        (readBits (extraBits slot - 3) >>= fun v => goto (.alignedSym length (alignedBase slot v.toNat)))
      else if extraBits slot = 3 then goto (.alignedSym length (alignedBase slot 0))
      else matchVerb slot length := rfl

end Sys2Proof.Machine
end

