-- ==== Sys2Proof/Laws/PerInstr.lean ====
section
/-! SUPPORT. Statements made once per instruction: the encoding of a well-formed instruction is a word of its own row of
spec/opcode_table.json (mask, match and value range). -/

namespace Sys2Proof.Laws.TableRow

open Sys2Proof

/-- The decoded value of an opcode word as the table numbers it; 0 in the rows that no value selects. -/
def value : OpWord → Nat
  | .cmd c _ => c.word.toNat
  | .hdr f => f.toNat
  | .blk t => t.toNat
  | .alnLens => 0
  | .preLens => 0
  | .pre z => z.toNat
  | .main _ s => s.toNat
  | .len f => f.toNat
  | .aln a => a.toNat
  | .uncPad => 0
  | .uncHdr => 0
  | .uncByte => 0
  | .frm h0 => h0.toNat

/-- Mask, match, least and greatest value of a row. -/
structure Row where
  mask  : Nat
  value : Nat
  low   : Nat
  high  : Nat
deriving DecidableEq, Repr

/-- The row of each instruction. -/
def row : Instr → Row
  | .init _ => { mask := 0xFFFF00FF, value := 1, low := 1, high := 0xFF01 }
  | .decompress _ _ => { mask := 0xFFFFFFFF, value := 2, low := 2, high := 2 }
  | .seqRun _ _ => { mask := 0xFFFFFFFF, value := 3, low := 3, high := 3 }
  | .readState _ => { mask := 0xFFFF00FF, value := 4, low := 4, high := 0xFF04 }
  | .cmdReserved _ => { mask := 0, value := 0, low := 0, high := 0xFFFFFFFF }
  | .hdrNoE8 => { mask := 1, value := 0, low := 0, high := 0 }
  | .hdrE8 => { mask := 1, value := 1, low := 1, high := 1 }
  | .blkVerbatim => { mask := 7, value := 1, low := 1, high := 1 }
  | .blkAligned => { mask := 7, value := 2, low := 2, high := 2 }
  | .blkUncompressed => { mask := 7, value := 3, low := 3, high := 3 }
  | .blkInvalid0 => { mask := 7, value := 0, low := 0, high := 0 }
  | .blkInvalid4to7 _ => { mask := 4, value := 4, low := 4, high := 7 }
  | .alnLens => { mask := 0, value := 0, low := 0, high := 0 }
  | .preLens => { mask := 0, value := 0, low := 0, high := 0 }
  | .preDelta _ => { mask := 0, value := 0, low := 0, high := 16 }
  | .preZrun4 => { mask := 0x1F, value := 0x11, low := 17, high := 17 }
  | .preZrun20 => { mask := 0x1F, value := 0x12, low := 18, high := 18 }
  | .preSame => { mask := 0x1F, value := 0x13, low := 19, high := 19 }
  | .mainLit _ => { mask := 0x300, value := 0, low := 0, high := 255 }
  | .mainMatchR0 _ => { mask := 0x3F8, value := 0x100, low := 256, high := 263 }
  | .mainMatchR1 _ => { mask := 0x3F8, value := 0x108, low := 264, high := 271 }
  | .mainMatchR2 _ => { mask := 0x3F8, value := 0x110, low := 272, high := 279 }
  | .mainMatchOne _ => { mask := 0x3F8, value := 0x118, low := 280, high := 287 }
  | .mainMatchVerb _ _ => { mask := 0, value := 0, low := 288, high := 655 }
  | .mainMatchAlgn _ _ => { mask := 0, value := 0, low := 288, high := 655 }
  | .lenFooter _ => { mask := 0, value := 0, low := 0, high := 249 }
  | .alnSym _ => { mask := 0, value := 0, low := 0, high := 7 }
  | .uncPad => { mask := 0, value := 0, low := 0, high := 0 }
  | .uncHdr => { mask := 0, value := 0, low := 0, high := 0 }
  | .uncByte => { mask := 0, value := 0, low := 0, high := 0 }
  | .frmStd _ => { mask := 0, value := 0, low := 0, high := 0xFE }
  | .frmExplicit => { mask := 0xFF, value := 0xFF, low := 0xFF, high := 0xFF }

/-- The encoding of a well-formed instruction is a word of its row. -/
def Statement (i : Instr) : Prop :=
  i.wellFormed = true →
    value (encode i) &&& (row i).mask = (row i).value ∧ (row i).low ≤ value (encode i) ∧ value (encode i) ≤ (row i).high

theorem init (wb : BitVec 8) : Statement (.init wb) := fun _ => by
  revert wb; decide +kernel

theorem decompress (n : Word) (bs : List Byte) : Statement (.decompress n bs) := fun _ => by
  refine ⟨?_, ?_, ?_⟩ <;> simp [encode, value, row, cmdWord]

theorem seqRun (n : Word) (bs : List Byte) : Statement (.seqRun n bs) := fun _ => by
  refine ⟨?_, ?_, ?_⟩ <;> simp [encode, value, row, cmdWord]

theorem readState (id : BitVec 8) : Statement (.readState id) := fun _ => by
  revert id; decide +kernel

theorem cmdReserved (w : Word) : Statement (.cmdReserved w) := fun _ => by
  have := w.isLt
  refine ⟨Nat.and_zero _, Nat.zero_le _, ?_⟩
  show w.toNat ≤ 0xFFFFFFFF
  omega

theorem hdrNoE8 : Statement .hdrNoE8 := fun _ => by decide
theorem hdrE8 : Statement .hdrE8 := fun _ => by decide
theorem blkVerbatim : Statement .blkVerbatim := fun _ => by decide
theorem blkAligned : Statement .blkAligned := fun _ => by decide
theorem blkUncompressed : Statement .blkUncompressed := fun _ => by decide
theorem blkInvalid0 : Statement .blkInvalid0 := fun _ => by decide
theorem blkInvalid4to7 (t : BitVec 3) : Statement (.blkInvalid4to7 t) := by unfold Statement; revert t; decide
theorem alnLens : Statement .alnLens := fun _ => by decide
theorem preLens : Statement .preLens := fun _ => by decide
theorem preDelta (z : BitVec 5) : Statement (.preDelta z) := by unfold Statement; revert z; decide
theorem preZrun4 : Statement .preZrun4 := fun _ => by decide
theorem preZrun20 : Statement .preZrun20 := fun _ => by decide
theorem preSame : Statement .preSame := fun _ => by decide
theorem mainLit (b : Byte) : Statement (.mainLit b) := by unfold Statement; revert b; decide +kernel
theorem mainMatchR0 (lh : BitVec 3) : Statement (.mainMatchR0 lh) := by unfold Statement; revert lh; decide
theorem mainMatchR1 (lh : BitVec 3) : Statement (.mainMatchR1 lh) := by unfold Statement; revert lh; decide
theorem mainMatchR2 (lh : BitVec 3) : Statement (.mainMatchR2 lh) := by unfold Statement; revert lh; decide
theorem mainMatchOne (lh : BitVec 3) : Statement (.mainMatchOne lh) := by unfold Statement; revert lh; decide
theorem mainMatchVerb (slot : BitVec 6) (lh : BitVec 3) : Statement (.mainMatchVerb slot lh) := by
  unfold Statement; revert slot lh; decide +kernel
theorem mainMatchAlgn (slot : BitVec 6) (lh : BitVec 3) : Statement (.mainMatchAlgn slot lh) := by
  unfold Statement; revert slot lh; decide +kernel
theorem lenFooter (f : BitVec 8) : Statement (.lenFooter f) := by unfold Statement; revert f; decide +kernel
theorem alnSym (a : BitVec 3) : Statement (.alnSym a) := by unfold Statement; revert a; decide
theorem uncPad : Statement .uncPad := fun _ => by decide
theorem uncHdr : Statement .uncHdr := fun _ => by decide
theorem uncByte : Statement .uncByte := fun _ => by decide
theorem frmStd (h0 : Byte) : Statement (.frmStd h0) := by unfold Statement; revert h0; decide +kernel
theorem frmExplicit : Statement .frmExplicit := fun _ => by decide

end Sys2Proof.Laws.TableRow
end

