-- ==== Sys2Proof/Tests/Slice0.lean ====
section
/-! SUPPORT. The model's own tests: ill-formed terms, words written out from the encodings, one step per instruction on a
small state with results from the spec's examples, and for every statement with hypotheses a state that meets them. -/

namespace Sys2Proof.Tests

open Sys2Proof Sys2Proof.Machine

/-! ### Helpers -/

/-- The outcome is a next state that satisfies `p`. -/
def nextIs (o : Host.Outcome State Fault Refusal) (p : State → Bool) : Bool :=
  match o with
  | .next t => p t
  | _ => false

/-- READY after INIT(15). -/
def ready : State := State.reset.startStream 15

/-- READY after INIT(15), at a phase, the bit cursor at bit 0 of a chunk. -/
def reading (p : Phase) (chunk : List Byte) : State := { ready with phase := p, chunk := chunk }

/-- The same, the raw cursor at byte `pos` of a chunk. -/
def rawAt (p : Phase) (chunk : List Byte) (pos : Word) : State :=
  { ready with phase := p, chunk := chunk, cur := { mode := .raw, segBase := 0, c := 0, inPos := pos } }

/-- Inside a run of 300 bytes of a block of type `bt`. -/
def running (bt : BitVec 3) (chunk : List Byte) : State :=
  { reading .runLoop chunk with run := 300, dec := { ready.dec with blockType := bt } }

/-- READY under WINDOW_INIT = Fill 0xDC after INIT(wb), inside a run of 300 bytes of a block of type `bt`. -/
def filled (wb : BitVec 5) (bt : BitVec 3) (chunk : List Byte) : State :=
  let p : Config.Params := { Config.Params.default with windowInit := .fill 0xDC }
  { ({ State.reset with params := p }.startStream wb) with
    phase := .runLoop, chunk := chunk, run := 300, dec := { initialDecoder p wb with blockType := bt } }

/-- Inside a run after the literal 0x41. -/
def afterA : State := { running 1 [] with dec := ((running 1 []).putByte 0x41).dec }

/-- A command word without operands. -/
def bare (w : Word) : OpWord := .cmd { word := w, operands := [], bytes := [] } 0

/-! ### Well-formedness: one ill-formed term per check -/

/-- No machine word counts 2^32 bytes. -/
theorem test_ill_formed_length (bs : List Byte) (h : bs.length = 2 ^ 32) :
    (Instr.decompress 0 bs).wellFormed = false ∧ (Instr.seqRun 0 bs).wellFormed = false := by
  simp [Instr.wellFormed, bytesFit, h]

theorem test_ill_formed_reserved : (Instr.cmdReserved 0x00000F01).wellFormed = false := by decide
theorem test_ill_formed_block_type : (Instr.blkInvalid4to7 3).wellFormed = false := by decide
theorem test_ill_formed_delta : (Instr.preDelta 17).wellFormed = false := by decide
theorem test_ill_formed_slot :
    (Instr.mainMatchVerb 3 0).wellFormed = false ∧ (Instr.mainMatchVerb 50 0).wellFormed = false ∧
      (Instr.mainMatchAlgn 3 0).wellFormed = false ∧ (Instr.mainMatchAlgn 50 0).wellFormed = false := by decide
theorem test_ill_formed_footer : (Instr.lenFooter 250).wellFormed = false := by decide
theorem test_ill_formed_frame : (Instr.frmStd 0xFF).wellFormed = false := by decide

/-! ### Decoding: words written out from the encodings -/

/-- R70, R71, R156: `op` in bits 3:0, `arg` in bits 15:8. -/
theorem test_decode_commands :
    decode (bare 0b00000000000000000000111100000001) = .ok (.init 15) ∧
    decode (bare 0b00000000000000000001000100000100) = .ok (.readState 0x11) ∧
    decode (.cmd { word := 0b10, operands := [1, 5], bytes := [0x48] } 0) = .ok (.decompress 5 [0x48]) ∧
    decode (.cmd { word := 0b11, operands := [2, 7], bytes := [0, 0] } 0) = .ok (.seqRun 7 [0, 0]) ∧
    decode (bare 0b00000000000000000000000000010001) = .ok (.cmdReserved 0x11) := by decide

/-- R71: `in_len` of the bytes the host supplies are read; INIT, READ_STATE and a refused word read none. -/
theorem test_decode_surplus :
    decode (.cmd { word := 2, operands := [1, 5, 9], bytes := [7, 8] } 0) = .ok (.decompress 5 [7]) ∧
    decode (.cmd { word := 4, operands := [0], bytes := [1] } 0) = .ok (.readState 0) ∧
    decode (.cmd { word := 0, operands := [0], bytes := [] } 0) = .ok (.cmdReserved 0) := by decide

/-- R71: a byte and an operand word the host has not supplied are free values (log 13). -/
theorem test_decode_short (d : Nat) :
    decode (.cmd { word := 3, operands := [2], bytes := [7] } d) =
      .ok (.seqRun (Config.unsuppliedOperand d 1) [7, Config.unsuppliedByte d 1]) := rfl

/-- An ill-formed transaction for each check: no operand, a byte too few, a byte too many, an operand word for INIT. -/
theorem test_ill_formed_transaction :
    ({ word := 2, operands := [0], bytes := [] } : HostCommand).wellFormed = false ∧
    ({ word := 2, operands := [2, 5], bytes := [0] } : HostCommand).wellFormed = false ∧
    ({ word := 3, operands := [0, 5], bytes := [0] } : HostCommand).wellFormed = false ∧
    ({ word := 0xF01, operands := [0], bytes := [] } : HostCommand).wellFormed = false := by decide

/-- R75, R74. -/
theorem test_decode_headers :
    decode (.hdr 0b0) = .ok .hdrNoE8 ∧ decode (.hdr 0b1) = .ok .hdrE8 ∧
    decode (.blk 0b000) = .ok .blkInvalid0 ∧ decode (.blk 0b001) = .ok .blkVerbatim ∧
    decode (.blk 0b010) = .ok .blkAligned ∧ decode (.blk 0b011) = .ok .blkUncompressed ∧
    decode (.blk 0b100) = .ok (.blkInvalid4to7 4) ∧ decode (.blk 0b111) = .ok (.blkInvalid4to7 7) ∧
    decode .alnLens = .ok .alnLens ∧ decode .preLens = .ok .preLens := by decide

/-- R82. -/
theorem test_decode_pre :
    decode (.pre 0) = .ok (.preDelta 0) ∧ decode (.pre 16) = .ok (.preDelta 16) ∧ decode (.pre 17) = .ok .preZrun4 ∧
    decode (.pre 18) = .ok .preZrun20 ∧ decode (.pre 19) = .ok .preSame ∧ decode (.pre 20) = .error .preSymbol := by
  decide

/-- R83, R85: 256 + 8 * slot + lh; 299 = slot 5, lh 3 (P4); 322 = slot 8, lh 2; 655 = slot 49, lh 7. -/
theorem test_decode_main :
    decode (.main 1 97) = .ok (.mainLit 0x61) ∧ decode (.main 1 256) = .ok (.mainMatchR0 0) ∧
    decode (.main 2 265) = .ok (.mainMatchR1 1) ∧ decode (.main 2 274) = .ok (.mainMatchR2 2) ∧
    decode (.main 1 287) = .ok (.mainMatchOne 7) ∧ decode (.main 1 299) = .ok (.mainMatchVerb 5 3) ∧
    decode (.main 2 322) = .ok (.mainMatchAlgn 8 2) ∧ decode (.main 1 655) = .ok (.mainMatchVerb 49 7) ∧
    decode (.main 1 656) = .error .mainSymbol ∧ decode (.main 3 97) = .error .mainBlockType := by decide

/-- R84, R79, R89, R91. -/
theorem test_decode_rest :
    decode (.len 249) = .ok (.lenFooter 249) ∧ decode (.len 250) = .error .lengthSymbol ∧
    decode (.aln 0b101) = .ok (.alnSym 5) ∧ decode .uncPad = .ok .uncPad ∧ decode .uncHdr = .ok .uncHdr ∧
    decode .uncByte = .ok .uncByte ∧ decode (.frm 0x12) = .ok (.frmStd 0x12) ∧
    decode (.frm 0b11111111) = .ok .frmExplicit := by decide

/-! ### One word of the opcode table -/

theorem test_table_words :
    decodeTableWord 32 0x00000F01 = some (.init 15) ∧ decodeTableWord 32 2 = some (.decompress 0 []) ∧
    decodeTableWord 8 1 = some .hdrE8 ∧ decodeTableWord 8 2 = some .blkAligned ∧
    decodeTableWord 16 299 = some (.mainMatchVerb 5 3) ∧ decodeTableWord 8 0xFF = some .frmExplicit := by decide

theorem test_fetch_words :
    nextIs (step (State.reset.withFetchWord 32 0x00000F01)) (fun t => decide (t.stat.status = .ready)) = true ∧
    nextIs (step (State.reset.withFetchWord 8 1)) (fun t => decide (t.dec.headerRead = true)) = true ∧
    nextIs (step (State.reset.withFetchWord 16 0x41)) (fun t => decide (t.windowByte 0 = some 0x41)) = true := by
  decide

/-! ### One step per instruction -/

/-- R141, its example: INIT(15), then register 7 is 1. -/
theorem test_init : nextIs (exec (.init 15) State.reset) (fun t => decide (t.register 7 = 1 ∧ t.register 5 = 15)) = true := by
  decide

/-- R141: INIT(22). -/
theorem test_init_bad : nextIs (exec (.init 22) ready) (fun t => decide (t.register 0 = 2 ∧ t.register 1 = 1)) = true := by
  decide

/-- R142. -/
theorem test_decompress :
    nextIs (exec (.decompress 5 [0x48]) ready) (fun t => decide (t.togo = 5 ∧ t.phase = .streamHdr)) = true := by decide

/-- R256: NotReady. -/
theorem test_decompress_not_ready :
    nextIs (exec (.decompress 5 []) State.reset) (fun t => decide (t.replies = [{ status := 9, data := .none }])) = true := by
  decide

/-- R256: a SEQ_RUN at power-on with its operands missing is NotReady too. -/
theorem test_short_not_ready :
    nextIs (step { State.reset with pending := [{ word := 3, operands := [5], bytes := [] }] })
      (fun t => decide (t = { State.reset with replies := [{ status := 9, data := .none }] })) = true := by decide

/-- R231. -/
theorem test_seq_run : nextIs (exec (.seqRun 0 [0, 0]) ready) (fun t => decide (t.phase = .seqLoop)) = true := by decide

/-- R155: a reserved id. -/
theorem test_read_state :
    nextIs (exec (.readState 0x12) ready) (fun t => decide (t.replies = [{ status := 0, data := .value 0 }])) = true := by
  decide

/-- R156. -/
theorem test_cmd_reserved :
    nextIs (exec (.cmdReserved 5) ready)
      (fun t => decide (t = { ready with replies := [{ status := 11, data := .none }] })) = true := by decide

/-- R170: the flag 0. -/
theorem test_hdr_no_e8 :
    nextIs (step (reading .streamHdr [0x00, 0x30]))
      (fun t => decide (t.dec.headerRead = true ∧ t.dec.e8FileSize = 0 ∧ t.cur.c = 1)) = true := by decide

/-- R170, its example: `1 0000000000000000 0001000000000000`, 33 bits. -/
theorem test_hdr_e8 :
    nextIs (step (reading .streamHdr [0x00, 0x80, 0x00, 0x08, 0x00, 0x00]))
      (fun t => decide (t.dec.e8FileSize = 0x1000 ∧ t.cur.c = 33)) = true := by decide

/-- R172, its example: `001 0000000000000000 00001000` is a VERBATIM block of length 8. -/
theorem test_blk_verbatim :
    nextIs (step (reading .blockHdr [0x00, 0x20, 0x00, 0x01]))
      (fun t => decide (t.dec.blockType = 1 ∧ t.dec.blockRemaining = 8 ∧ t.phase = .preLens .main1)) = true := by decide

/-- R174: the same with type 2. -/
theorem test_blk_aligned :
    nextIs (step (reading .blockHdr [0x00, 0x40, 0x00, 0x01]))
      (fun t => decide (t.dec.blockType = 2 ∧ t.dec.blockLength = 8 ∧ t.phase = .alnLens)) = true := by decide

/-- R179, P1: the header ends at bit 28, the raw bytes start at index 4. -/
theorem test_blk_uncompressed :
    nextIs (step { reading .blockHdr [0x00, 0x30, 0x50, 0x00] with cur := { mode := .bit, segBase := 0, c := 1, inPos := 0 } })
      (fun t => decide (t.dec.blockLength = 5 ∧ t.cur.inPos = 4 ∧ t.dec.e8Started = true)) = true := by decide

/-- R181, K6: type 0, err_pos 28 (the header flag's bit before it). -/
theorem test_blk_invalid0 :
    nextIs (step { reading .blockHdr [0x00, 0x00, 0x10, 0x00] with cur := { mode := .bit, segBase := 0, c := 1, inPos := 0 } })
      (fun t => decide (t.stat.errCode = 3 ∧ t.stat.errPos = 28 ∧ t.dec.blockLength = 1)) = true := by decide

/-- R181, K8: type 7. -/
theorem test_blk_invalid7 :
    nextIs (step { reading .blockHdr [0x00, 0x70, 0x10, 0x00] with cur := { mode := .bit, segBase := 0, c := 1, inPos := 0 } })
      (fun t => decide (t.stat.errCode = 3 ∧ t.stat.errPos = 28 ∧ t.dec.blockType = 7)) = true := by decide

/-- R189, its example: eight fields `011`; the code of symbol 2 is `010`. -/
theorem test_aln_lens :
    nextIs (step (reading .alnLens [0xB6, 0x6D, 0x00, 0xDB]))
      (fun t => decide (lenAt t.dec.alignedLen 7 = 3 ∧ t.cur.c = 24 ∧
        (match t.dec.alignedTable with
          | .codes es => findCode es 3 2
          | .empty => none) = some 2)) = true := by decide +kernel

/-- R190, its example: 15 = `00`, 16 = `01`, 18 = `10`, 0 = `110`, 17 = `111`. -/
theorem test_pre_lens :
    nextIs (step (reading (.preLens .main2) [0x00, 0x30, 0x00, 0x00, 0x00, 0x00, 0x02, 0x00, 0x20, 0x23]))
      (fun t => decide (t.phase = .record .main2 256 ∧
        (match t.dec.preTable with
          | .codes es => [findCode es 2 0, findCode es 2 1, findCode es 2 2, findCode es 3 6, findCode es 3 7]
          | .empty => []) = [some 15, some 16, some 18, some 0, some 17])) = true := by decide +kernel

/-- R183, its example: old length 0 and z = 15 give 2. -/
theorem test_pre_delta :
    nextIs (exec (.preDelta 15) (reading (.record .main1 98) []))
      (fun t => decide (lenAt t.dec.mainLen 98 = 2 ∧ t.phase = .record .main1 99)) = true := by decide

/-- R186, its example: at x = 254 of the first record PRE.ZRUN4 with y = 0 writes 254 to 257. -/
theorem test_pre_zrun4 :
    nextIs (exec .preZrun4
        { reading (.record .main1 254) [0, 0] with
          dec := { ready.dec with mainLen := [(254, 3), (257, 3), (258, 3)] } })
      (fun t => decide (t.dec.mainLen = [(258, 3)] ∧ t.phase = .record .main1 258)) = true := by decide

/-- R185, its example: y = 31 writes 51 zeros. -/
theorem test_pre_zrun20 :
    nextIs (exec .preZrun20
        { reading (.record .length 0) [0x00, 0xF8] with dec := { ready.dec with lengthLen := [(50, 3), (51, 3)] } })
      (fun t => decide (t.dec.lengthLen = [(51, 3)] ∧ t.phase = .record .length 51)) = true := by decide

/-- R187, its example: old length 3, y = 1, z2 = 1: five entries become 2. -/
theorem test_pre_same :
    nextIs (exec .preSame
        { reading (.record .main1 0) [0x00, 0x80] with
          dec := { ready.dec with mainLen := [(0, 3), (4, 3), (5, 7)], preTable := twoSymbolCode 1 } })
      (fun t => decide (t.dec.mainLen = [(0, 2), (1, 2), (2, 2), (3, 2), (4, 2), (5, 7)])) = true := by decide

/-- R188: z2 = 19. -/
theorem test_pre_same_bad :
    nextIs (exec .preSame
        { reading (.record .main1 0) [0x00, 0x00] with dec := { ready.dec with preTable := twoSymbolCode 19 } })
      (fun t => decide (t.stat.errCode = 2 ∧ t.stat.errSub = 4)) = true := by decide

/-- R201, P2: the code of 'a' writes 0x61 at window position 0. -/
theorem test_main_lit :
    nextIs (exec (.mainLit 0x61) (running 1 []))
      (fun t => decide (t.windowByte 0 = some 0x61 ∧ t.dec.windowPos = 1 ∧ t.dec.written = 1 ∧ t.run = 299)) = true := by
  decide

/-- R215, its example: 'A', then offset 1 and length 4 give AAAAA. -/
theorem test_match_r0 :
    nextIs (exec (.mainMatchR0 2) afterA)
      (fun t => decide ([0, 1, 2, 3, 4, 5].map t.windowByte =
        [some 0x41, some 0x41, some 0x41, some 0x41, some 0x41, none] ∧ t.run = 296)) = true := by decide

/-- R206, its example: (16, 1, 1) and slot 1 give offset 1 and (1, 16, 1). -/
theorem test_match_r1 :
    nextIs (exec (.mainMatchR1 0) { afterA with dec := { afterA.dec with r0 := 16, r1 := 1, r2 := 1 } })
      (fun t => decide (t.dec.r0 = 1 ∧ t.dec.r1 = 16 ∧ t.dec.r2 = 1 ∧ t.windowByte 2 = some 0x41)) = true := by decide

/-- R207, its example: (16, 1, 1) and slot 2 give offset 1 and (1, 1, 16). -/
theorem test_match_r2 :
    nextIs (exec (.mainMatchR2 0) { afterA with dec := { afterA.dec with r0 := 16, r1 := 1, r2 := 1 } })
      (fun t => decide (t.dec.r0 = 1 ∧ t.dec.r1 = 1 ∧ t.dec.r2 = 16 ∧ t.windowByte 2 = some 0x41)) = true := by decide

/-- R208, its example: (5, 1, 1) and slot 3 give (1, 5, 1). -/
theorem test_match_one :
    nextIs (exec (.mainMatchOne 0) { afterA with dec := { afterA.dec with r0 := 5, r1 := 1, r2 := 1 } })
      (fun t => decide (t.dec.r0 = 1 ∧ t.dec.r1 = 5 ∧ t.dec.r2 = 1 ∧ t.windowByte 2 = some 0x41)) = true := by decide

/-- R209, its example (P4): slot 5, bit `1`, offset 5. -/
theorem test_match_verb :
    nextIs (exec (.mainMatchVerb 5 0) (filled 15 1 [0x00, 0x80]))
      (fun t => decide (t.dec.r0 = 5 ∧ t.dec.r1 = 1 ∧ t.cur.c = 1 ∧ t.windowByte 1 = some 0xDC)) = true := by decide

/-- R214, R216: an offset above WS faults after R0 is updated. -/
theorem test_match_beyond :
    nextIs (exec (.mainMatchVerb 36 0) (filled 15 1 [0, 0, 0, 0]))
      (fun t => decide (t.stat.errCode = 4 ∧ t.stat.errSub = 4 ∧ t.dec.r0 = 262142)) = true := by decide

/-- R210, its example (P3): slot 8 (EB = 3), aligned symbol 2, offset 16. -/
theorem test_match_algn :
    nextIs (exec (.mainMatchAlgn 8 2) (filled 15 2 [])) (fun t => decide (t.phase = .alignedSym 4 14)) = true := by decide

theorem test_aln_sym :
    nextIs (exec (.alnSym 2) { filled 15 2 [] with phase := .alignedSym 4 14 })
      (fun t => decide (t.dec.r0 = 16 ∧ t.dec.windowPos = 4 ∧ t.phase = .runLoop)) = true := by decide

/-- R203, its example: lh = 7 and f = 0 give length 9. -/
theorem test_len_footer :
    nextIs (exec (.lenFooter 0) { filled 15 1 [] with phase := .footer 0 })
      (fun t => decide (t.dec.windowPos = 9 ∧ t.run = 291)) = true := by decide

/-- R171, its example: in_pos 21, the new segment starts at 22. -/
theorem test_unc_pad :
    nextIs (exec .uncPad (rawAt .uncPad (List.replicate 22 0xFF) 21))
      (fun t => decide (t.cur.segBase = 22 ∧ t.cur.mode = .bit ∧ t.phase = .blockHdr)) = true := by decide

/-- R180: 01 00 00 00, 00 02 00 00, 00 00 00 03. -/
theorem test_unc_hdr :
    nextIs (exec .uncHdr (rawAt .uncHdr [1, 0, 0, 0, 0, 2, 0, 0, 0, 0, 0, 3] 0))
      (fun t => decide (t.dec.r0 = 1 ∧ t.dec.r1 = 0x200 ∧ t.dec.r2 = 0x03000000 ∧ t.cur.inPos = 12)) = true := by decide

/-- R220, P1: the raw byte 48 becomes window byte 0. -/
theorem test_unc_byte :
    nextIs (exec .uncByte { rawAt .runLoop [0x48] 0 with run := 5, dec := { ready.dec with blockType := 3 } })
      (fun t => decide (t.windowByte 0 = some 0x48 ∧ t.cur.inPos = 1 ∧ t.run = 4)) = true := by decide

/-- R220, Z1: the chunk ends before the byte; err_pos 8 * in_pos. -/
theorem test_unc_byte_truncated :
    nextIs (exec .uncByte { rawAt .runLoop [0x48] 1 with run := 5, dec := { ready.dec with blockType := 3 } })
      (fun t => decide (t.stat.errCode = 5 ∧ t.stat.errPos = 8 ∧ t.dec.windowPos = 0)) = true := by decide

/-- R27, R142: in a DECOMPRESS that starts inside an UNCOMPRESSED block the cursor stays in bit mode. -/
theorem test_unc_byte_keeps_mode :
    nextIs (exec .uncByte { reading .runLoop [0x48] with run := 5, dec := { ready.dec with blockType := 3 } })
      (fun t => decide (t.cur = { mode := .bit, segBase := 0, c := 0, inPos := 1 })) = true := by decide

/-- SEQ_RUN at a frame header. -/
def atFrame (payload : List Byte) : State :=
  { ready with phase := .frameHdr, seq := some { payload := payload, pos := 0, decompressedLen := 0, out := [] } }

/-- R233: `00 02` gives a frame of 2 compressed bytes that must decode to 32768. -/
theorem test_frm_std :
    nextIs (exec (.frmStd 0) (atFrame [0, 2, 0xAA, 0xBB, 0xCC]))
      (fun t => decide (t.chunk = [0xAA, 0xBB] ∧ t.outLen = 32768 ∧ t.phase = .streamHdr)) = true := by decide

/-- R234: `FF 00 05 00 01` gives a frame of 1 compressed byte that must decode to 5. -/
theorem test_frm_explicit :
    nextIs (exec .frmExplicit (atFrame [0xFF, 0, 5, 0, 1, 0xAA]))
      (fun t => decide (t.chunk = [0xAA] ∧ t.outLen = 5)) = true := by decide

/-! ### Witnesses: for every statement with hypotheses, a state and operands that meet them, one per clause -/

/-- INIT 15, 21 and 14, 22. -/
theorem test_hyp_InitStartsStreamOrFaults :
    State.reset.phase = .idle ∧ (15 ≤ (15 : Byte).toNat ∧ (15 : Byte).toNat ≤ 21) ∧
      (15 ≤ (21 : Byte).toNat ∧ (21 : Byte).toNat ≤ 21) ∧ (14 : Byte).toNat < 15 ∧ 21 < (22 : Byte).toNat ∧
      State.reset.params.windowInit = .unspecified ∧ (filled 15 1 []).params.windowInit = .fill 0xDC := by decide

/-- Three bytes asked for, of which the host has supplied two. -/
def twoOfThree (w : Word) : HostCommand := { word := w, operands := [3, 5], bytes := [7, 8] }

theorem test_hyp_DecompressStartsFrame :
    (ready.phase = .idle ∧ ready.stat.status = .ready) ∧ (twoOfThree 2).word = 2 ∧
      (twoOfThree 2).operands[0]? = some 3 ∧ (twoOfThree 2).operands[1]? = some 5 ∧ (twoOfThree 2).bytes.length = 2 := by
  decide

theorem test_hyp_SeqRunStartsAtPayloadHead :
    (ready.phase = .idle ∧ ready.stat.status = .ready) ∧ (twoOfThree 3).word = 3 ∧
      (twoOfThree 3).operands[0]? = some 3 ∧ (twoOfThree 3).operands[1]? = some 5 := by decide

theorem test_hyp_RefusedCommandsChangeNothing :
    State.reset.phase = .idle ∧ State.reset.stat.status ≠ .ready ∧
      ({ State.reset with pending := [twoOfThree 2] } : State).pending = twoOfThree 2 :: [] ∧ (twoOfThree 3).word = 3 ∧
      (0x11 : Word).extractLsb' 4 4 ≠ 0 ∧ (0x80000001 : Word).extractLsb' 16 16 ≠ 0 ∧
      (0xF00 : Word).extractLsb' 0 4 = 0 ∧ 5 ≤ ((5 : Word).extractLsb' 0 4).toNat ∧
      (0x102 : Word).extractLsb' 0 4 = 2 ∧ (0x102 : Word).extractLsb' 8 8 ≠ 0 := by decide

theorem test_hyp_ReadStateReturnsRegister :
    State.reset.phase = .idle ∧ 0x12 ≤ (0x12 : Byte).toNat ∧ (0x1204 : Word).extractLsb' 0 4 = 4 ∧
      (0x1204 : Word).extractLsb' 4 4 = 0 ∧ (0x1204 : Word).extractLsb' 16 16 = 0 := by decide

/-- A state in FAULTED. -/
def faulted : State := ready.enterFault .invalidBlockType (some 28)

theorem test_hyp_RegisterViewShowsElements :
    State.reset.stat.status = .uninit ∧ ready.stat.status = .ready ∧ faulted.stat.status = .faulted := by decide

/-- 32 bits are just there in four bytes. -/
theorem test_hyp_StreamHeaderSetsFileSize :
    (reading .streamHdr [1, 2, 3, 4]).phase = .streamHdr ∧ (reading .streamHdr [1, 2, 3, 4]).canRead 32 = true := by decide

theorem test_hyp_CodedBlockHeaderSetsBlock :
    (reading .blockHdr [1, 2, 3, 4]).phase = .blockHdr ∧ (reading .blockHdr [1, 2, 3, 4]).canRead 24 = true := by decide

/-- A block header of exactly four bytes, under either PHANTOM_FETCH. -/
def fourBytes (p : Config.PhantomFetch) : State :=
  { reading .blockHdr [1, 2, 3, 4] with params := { Config.Params.default with phantomFetch := p } }

/-- The length field is just there; the word at the alignment is not. -/
theorem test_hyp_UncompressedHeaderAligns :
    ((fourBytes .draw).phase = .blockHdr ∧ (fourBytes .draw).canRead 24 = true ∧
      (fourBytes .draw).cur.segBase.toNat + 2 * (((fourBytes .draw).cur.c.toNat + 24) / 16 + 1) < 2 ^ 32) ∧
    ((fourBytes .draw).skip 24).canFetch 16 ∧
    ((fourBytes .fault).phase = .blockHdr ∧ (fourBytes .fault).canRead 24 = true) ∧
    ¬ ((fourBytes .fault).skip 24).canFetch 16 := by
  refine ⟨by decide, .inl rfl, by decide, ?_⟩
  unfold State.canFetch
  decide

theorem test_hyp_InvalidBlockTypeFaults :
    (reading .blockHdr [1, 2, 3, 4]).phase = .blockHdr ∧ (reading .blockHdr [1, 2, 3, 4]).canRead 24 = true ∧
      4 ≤ (4 : BitVec 3).toNat ∧ 4 ≤ (7 : BitVec 3).toNat ∧
      8 * (reading .blockHdr [1, 2, 3, 4]).cur.segBase.toNat + (reading .blockHdr [1, 2, 3, 4]).cur.c.toNat + 24 < 2 ^ 32 ∧
      (reading .blockHdr [1, 2, 3, 4]).cur.mode = .bit := by decide

/-- Canonical memory, checked field by field. -/
theorem canonical_of {s : State} (h : (Memory.wf s.params s.dec.window && cellsWf (some 0) s.dec.mainLen &&
    cellsWf (some 0) s.dec.lengthLen && cellsWf (some 0) s.dec.alignedLen && cellsWf (some 0) s.dec.preLen) = true) :
    MemoryCanonical s := by
  simp only [Bool.and_eq_true] at h
  exact ⟨h.1.1.1.1, h.1.1.1.2, h.1.1.2, h.1.2, h.2⟩

theorem test_hyp_AlignedLengthsAreRead :
    (reading .alnLens [0xB6, 0x6D, 0x00, 0xDB]).phase = .alnLens ∧
      (reading .alnLens [0xB6, 0x6D, 0x00, 0xDB]).canRead 24 = true ∧
      MemoryCanonical (reading .alnLens [0xB6, 0x6D, 0x00, 0xDB]) ∧
      buildTable (codeLens ((reading .alnLens [0xB6, 0x6D, 0x00, 0xDB]).fieldCells ([] : Cells 3) 8) 8) =
        .ok (.codes (canonicalCode [(0, 3), (1, 3), (2, 3), (3, 3), (4, 3), (5, 3), (6, 3), (7, 3)])) ∧
      (reading .alnLens [0, 0x20, 0, 0]).canRead 24 = true ∧
      buildTable (codeLens ((reading .alnLens [0, 0x20, 0, 0]).fieldCells ([] : Cells 3) 8) 8) = .error .incomplete :=
  ⟨by decide, by decide, canonical_of (by decide), by decide +kernel, by decide, by decide +kernel⟩

theorem test_hyp_PreTreeLengthsAreRead :
    (reading (.preLens .main2) (List.replicate 10 0)).phase = .preLens .main2 ∧
      (reading (.preLens .main2) (List.replicate 10 0)).canRead 80 = true ∧
      MemoryCanonical (reading (.preLens .main2) (List.replicate 10 0)) ∧
      buildTable (codeLens ((reading (.preLens .main2) (List.replicate 10 0)).fieldCells ([] : Cells 4) 20) 20) = .ok .empty ∧
      buildTable (codeLens ((reading (.preLens .main1) (0 :: 0x10 :: List.replicate 8 0)).fieldCells
        ([] : Cells 4) 20) 20) = .error .incomplete :=
  ⟨by decide, by decide, canonical_of (by decide), by decide +kernel, by decide +kernel⟩

/-- The last index of each record, for a window of 2^15. -/
theorem test_hyp_PreDeltaWritesOneLength :
    255 < Record.main1.last 15 ∧ 495 < Record.main2.last 15 ∧ 248 < Record.length.last 15 ∧
      (reading (.record .main1 255) []).phase = .record .main1 255 ∧ MemoryCanonical (reading (.record .main1 255) []) :=
  ⟨by decide, by decide, by decide, by decide, canonical_of (by decide)⟩

theorem test_hyp_ZeroRunsWriteZeros :
    255 < Record.main1.last 15 ∧ (reading (.record .main1 255) [0, 0]).phase = .record .main1 255 ∧
      MemoryCanonical (reading (.record .main1 255) [0, 0]) ∧ (reading (.record .main1 255) [0, 0]).canRead 4 = true ∧
      (reading (.record .main1 255) [0, 0]).canRead 5 = true :=
  ⟨by decide, by decide, canonical_of (by decide), by decide, by decide⟩

/-- Inside a record, with a pre-tree in which `sym` is the 1-bit code 0. -/
def sameAt (sym : Nat) : State :=
  { reading (.record .main1 255) [0, 0] with dec := { ready.dec with preTable := twoSymbolCode sym } }

/-- The second symbol 16, the last delta symbol. -/
theorem test_hyp_SameRunWritesCopies :
    (sameAt 16).phase = .record .main1 255 ∧ 255 < Record.main1.last (sameAt 16).dec.wb ∧ MemoryCanonical (sameAt 16) ∧
      (sameAt 16).canRead 1 = true ∧
      ∃ u, (decodeSym (sameAt 16).dec.preTable).run ((sameAt 16).skip 1) = .ok 16 u :=
  ⟨by decide, by decide, canonical_of (by decide), by decide, _, by rfl⟩

/-- The second symbols 17 and 19. -/
theorem test_hyp_SameRunRejectsRunSymbol :
    (sameAt 17).phase = .record .main1 255 ∧ 255 < Record.main1.last (sameAt 17).dec.wb ∧ (sameAt 17).canRead 1 = true ∧
      (∃ u, (decodeSym (sameAt 17).dec.preTable).run ((sameAt 17).skip 1) = .ok 17 u) ∧
      ∃ u, (decodeSym (sameAt 19).dec.preTable).run ((sameAt 19).skip 1) = .ok 19 u :=
  ⟨by decide, by decide, by decide, ⟨_, by rfl⟩, _, by rfl⟩

theorem test_hyp_LiteralWritesItsByte :
    (running 1 []).phase = .runLoop ∧ 0 < (running 1 []).run ∧ (running 1 []).dec.blockType = 1 ∧
      (running 1 []).dec.windowPos.toNat < windowSize (running 1 []).dec.wb ∧ MemoryCanonical (running 1 []) :=
  ⟨by decide, by decide, by decide, by decide, canonical_of (by decide)⟩

/-- Under Fill every byte of the window is there, so that the checks of R213 and R214 decide. -/
theorem filled_legal {wb : BitVec 5} {bt : BitVec 3} {chunk : List Byte} {length : Nat} {offset : Word}
    (h : length ≤ windowSize wb) (hl : length ≤ 300) (h0 : 0 < offset.toNat) (hw : offset.toNat ≤ windowSize wb) :
    MatchLegal (filled wb bt chunk) length offset := by
  refine ⟨?_, hl, h0, hw, fun hu => (nomatch hu), fun _ _ _ => rfl⟩
  show 0 + length ≤ windowSize wb
  omega

theorem filled_in_range {wb : BitVec 5} (bt : BitVec 3) (chunk : List Byte) (h1 : 15 ≤ wb.toNat) (h2 : wb.toNat ≤ 21) :
    WindowInRange (filled wb bt chunk) :=
  ⟨h1, h2, Nat.zero_le _, Nat.le_refl _, Nat.zero_le _⟩

theorem filled_canonical (wb : BitVec 5) (bt : BitVec 3) (chunk : List Byte) : MemoryCanonical (filled wb bt chunk) :=
  ⟨rfl, rfl, rfl, rfl, rfl⟩

/-- Length header 6, the longest without a footer. -/
theorem test_hyp_RepeatedOffsetMatchCopies :
    (filled 15 1 []).phase = .runLoop ∧ (filled 15 1 []).dec.blockType = 1 ∧ (6 : BitVec 3) ≠ 7 ∧
      WindowInRange (filled 15 1 []) ∧ MemoryCanonical (filled 15 1 []) ∧
      MatchLegal (filled 15 1 []) ((6 : BitVec 3).toNat + 2) (filled 15 1 []).dec.r0 ∧
      MatchLegal (filled 15 1 []) ((6 : BitVec 3).toNat + 2) (filled 15 1 []).dec.r1 ∧
      MatchLegal (filled 15 1 []) ((6 : BitVec 3).toNat + 2) (filled 15 1 []).dec.r2 ∧
      MatchLegal (filled 15 1 []) ((6 : BitVec 3).toNat + 2) 1 :=
  ⟨rfl, rfl, by decide, filled_in_range 1 [] (by decide) (by decide), filled_canonical _ _ _,
    filled_legal (by decide) (by decide) (by decide) (by decide), filled_legal (by decide) (by decide) (by decide) (by decide),
    filled_legal (by decide) (by decide) (by decide) (by decide), filled_legal (by decide) (by decide) (by decide) (by decide)⟩

theorem test_hyp_MatchHeaderAwaitsFooter :
    (running 1 []).phase = .runLoop ∧ 0 < (running 1 []).run ∧ (running 1 []).dec.blockType = 1 ∧
      (running 2 []).phase = .runLoop ∧ 0 < (running 2 []).run ∧ (running 2 []).dec.blockType = 2 := by decide

/-- Slot 49, the largest offset 2097149, in a window of 2^21. -/
theorem test_hyp_VerbatimMatchCopies :
    (filled 21 1 [0xFF, 0xFF, 0xFF, 0xFF]).phase = .runLoop ∧ (filled 21 1 [0xFF, 0xFF, 0xFF, 0xFF]).dec.blockType = 1 ∧
      (6 : BitVec 3) ≠ 7 ∧ 4 ≤ (49 : BitVec 6).toNat ∧ (49 : BitVec 6).toNat ≤ 49 ∧
      (filled 21 1 [0xFF, 0xFF, 0xFF, 0xFF]).canRead (extraBits (49 : BitVec 6).toNat) = true ∧
      (2097149 : Word).toNat = positionBase (49 : BitVec 6).toNat - 2 +
        ((filled 21 1 [0xFF, 0xFF, 0xFF, 0xFF]).field 0 (extraBits (49 : BitVec 6).toNat)).toNat ∧
      WindowInRange (filled 21 1 [0xFF, 0xFF, 0xFF, 0xFF]) ∧ MemoryCanonical (filled 21 1 [0xFF, 0xFF, 0xFF, 0xFF]) ∧
      MatchLegal (filled 21 1 [0xFF, 0xFF, 0xFF, 0xFF]) ((6 : BitVec 3).toNat + 2) 2097149 :=
  ⟨rfl, rfl, by decide, by decide, by decide, by decide +kernel, by decide +kernel,
    filled_in_range 1 _ (by decide) (by decide), filled_canonical _ _ _,
    filled_legal (by decide) (by decide) (by decide) (by decide)⟩

/-- Slots 10 and 49 (EXTRA_BITS above 3), 8 and 9 (3), 4 and 7 (below 3). -/
theorem test_hyp_AlignedMatchTakesOffset :
    (filled 15 2 [0, 0]).phase = .runLoop ∧ 0 < (filled 15 2 [0, 0]).run ∧ (filled 15 2 [0, 0]).dec.blockType = 2 ∧
      (6 : BitVec 3) ≠ 7 ∧ 4 ≤ (4 : BitVec 6).toNat ∧ (49 : BitVec 6).toNat ≤ 49 ∧
      3 < extraBits (10 : BitVec 6).toNat ∧ (filled 15 2 [0, 0]).canRead (extraBits (10 : BitVec 6).toNat - 3) = true ∧
      3 < extraBits (49 : BitVec 6).toNat ∧ (filled 15 2 [0, 0]).canRead (extraBits (49 : BitVec 6).toNat - 3) = true ∧
      extraBits (8 : BitVec 6).toNat = 3 ∧ extraBits (9 : BitVec 6).toNat = 3 ∧ extraBits (7 : BitVec 6).toNat < 3 ∧
      (filled 15 2 [0, 0]).canRead (extraBits (7 : BitVec 6).toNat) = true ∧
      (10 : Word).toNat = positionBase (7 : BitVec 6).toNat - 2 +
        ((filled 15 2 [0, 0]).field 0 (extraBits (7 : BitVec 6).toNat)).toNat ∧
      WindowInRange (filled 15 2 [0, 0]) ∧ MemoryCanonical (filled 15 2 [0, 0]) ∧
      MatchLegal (filled 15 2 [0, 0]) ((6 : BitVec 3).toNat + 2) 10 :=
  ⟨rfl, by decide, rfl, by decide, by decide, by decide, by decide, by decide, by decide, by decide, by decide, by decide,
    by decide, by decide, by decide +kernel, filled_in_range 2 _ (by decide) (by decide), filled_canonical _ _ _,
    filled_legal (by decide) (by decide) (by decide) (by decide)⟩

/-- Waiting for the footer of a match of a slot, in a block of type `bt`. -/
def footerAt (bt : BitVec 3) (slot : BitVec 6) : State := { filled 15 bt [0, 0, 0, 0] with phase := .footer slot }

theorem footer_legal {bt : BitVec 3} {slot : BitVec 6} {length : Nat} {offset : Word}
    (h : length ≤ 300) (h0 : 0 < offset.toNat) (hw : offset.toNat ≤ windowSize 15) :
    MatchLegal (footerAt bt slot) length offset := by
  refine ⟨?_, h, h0, hw, fun hu => (nomatch hu), fun _ _ _ => rfl⟩
  show 0 + length ≤ 2 ^ 15
  omega

/-- Footer 249, the largest; slots 0 to 3, 4 in either block type, 8 and 49 in an ALIGNED block. -/
theorem test_hyp_LengthFooterFinishesMatch :
    (∀ bt slot, (footerAt bt slot).phase = .footer slot ∧ WindowInRange (footerAt bt slot) ∧
      MemoryCanonical (footerAt bt slot)) ∧
    MatchLegal (footerAt 1 0) (7 + (249 : Byte).toNat + 2) (footerAt 1 0).dec.r0 ∧
    MatchLegal (footerAt 1 1) (7 + (249 : Byte).toNat + 2) (footerAt 1 1).dec.r1 ∧
    MatchLegal (footerAt 1 2) (7 + (249 : Byte).toNat + 2) (footerAt 1 2).dec.r2 ∧
    MatchLegal (footerAt 1 3) (7 + (249 : Byte).toNat + 2) 1 ∧
    (4 ≤ (4 : BitVec 6).toNat ∧ (footerAt 1 4).dec.blockType = 1 ∧ (footerAt 2 4).dec.blockType = 2 ∧
      extraBits (4 : BitVec 6).toNat < 3 ∧ (footerAt 1 4).canRead (extraBits (4 : BitVec 6).toNat) = true ∧
      (2 : Word).toNat = positionBase (4 : BitVec 6).toNat - 2 +
        ((footerAt 1 4).field 0 (extraBits (4 : BitVec 6).toNat)).toNat ∧
      MatchLegal (footerAt 1 4) (7 + (249 : Byte).toNat + 2) 2) ∧
    3 ≤ extraBits (8 : BitVec 6).toNat ∧ (footerAt 2 8).canRead (extraBits (8 : BitVec 6).toNat - 3) = true ∧
    3 ≤ extraBits (49 : BitVec 6).toNat ∧ (footerAt 2 49).canRead (extraBits (49 : BitVec 6).toNat - 3) = true :=
  ⟨fun bt slot => ⟨rfl, filled_in_range bt [] (by decide) (by decide), filled_canonical 15 bt []⟩,
    footer_legal (by decide) (by decide) (by decide), footer_legal (by decide) (by decide) (by decide),
    footer_legal (by decide) (by decide) (by decide), footer_legal (by decide) (by decide) (by decide),
    ⟨by decide, by decide, by decide, by decide, by decide, by decide +kernel,
      footer_legal (by decide) (by decide) (by decide)⟩, by decide, by decide, by decide, by decide +kernel⟩

theorem test_hyp_AlignedSymbolFinishesMatch :
    ({ filled 15 2 [] with phase := .alignedSym 4 14 } : State).phase = .alignedSym 4 14 ∧
      (21 : Word).toNat = 14 + (7 : BitVec 3).toNat ∧ WindowInRange { filled 15 2 [] with phase := .alignedSym 4 14 } ∧
      MemoryCanonical { filled 15 2 [] with phase := .alignedSym 4 14 } ∧
      MatchLegal { filled 15 2 [] with phase := .alignedSym 4 14 } 4 21 :=
  ⟨rfl, by decide, filled_in_range 2 [] (by decide) (by decide), filled_canonical 15 2 [],
    ⟨by decide, by decide, by decide, by decide, fun hu => (nomatch hu), fun _ _ _ => rfl⟩⟩

/-- In a VERBATIM block at a phase, with a window position and a most recent offset; nothing written. -/
def atPos (p : Phase) (pos : BitVec 22) (r0 : Word) : State :=
  { running 1 [0, 0, 0, 0] with phase := p, dec := { (running 1 []).dec with windowPos := pos, r0 := r0 } }

/-- The first value that fails each check: a match one byte past the window's end, a run one byte short, offset 0, WS + 1,
and 1 with nothing written. -/
theorem test_hyp_MatchChecksComeInOrder_checks :
    MatchFails (atPos .runLoop 32767 1) 2 1 (.windowOverrun .matchCrosses) ∧
    MatchFails (atPos .runLoop 0 1) 301 1 .lengthMismatch ∧
    MatchFails (atPos .runLoop 0 1) 300 0 (.windowOverrun .offsetZero) ∧
    MatchFails (atPos .runLoop 0 1) 300 32769 (.windowOverrun .offsetBeyond) ∧
    MatchFails (atPos .runLoop 0 1) 300 1 .unwrittenWindowRead := by
  unfold MatchFails
  decide

/-- Each form: the slots 0 to 3, slot 36 in a VERBATIM block and slot 7 in an ALIGNED block, their elements, a footer, an
aligned symbol. -/
theorem test_hyp_MatchChecksComeInOrder :
    (∀ p pos r0, (atPos p pos r0).phase = p ∧ (atPos p pos r0).run = 300) ∧
    (TakesOffset (atPos .runLoop 0 0) 0 0 (atPos .runLoop 0 0) ∧
      MatchFails (atPos .runLoop 0 0) 2 0 (.windowOverrun .offsetZero) ∧
      MatchElement (atPos .runLoop 0 0) 0 0 (.mainMatchR0 0)) ∧
    (∃ u, TakesOffset (atPos (.footer 1) 0 0) 1 1 u) ∧ (∃ u, TakesOffset (atPos (.footer 2) 0 0) 2 1 u) ∧
    (∃ u, TakesOffset (atPos (.footer 3) 0 0) 3 1 u) ∧
    ((∃ u, TakesOffset (atPos .runLoop 0 0) (36 : BitVec 6).toNat 262142 u) ∧
      MatchFails (atPos .runLoop 0 0) 2 262142 (.windowOverrun .offsetBeyond) ∧
      MatchElement (atPos .runLoop 0 0) 36 0 (.mainMatchVerb 36 0)) ∧
    ((∃ u, TakesOffset (running 2 [0, 0]) (7 : BitVec 6).toNat 10 u) ∧
      MatchFails (running 2 [0, 0]) 2 10 .unwrittenWindowRead ∧ MatchElement (running 2 [0, 0]) 7 0 (.mainMatchAlgn 7 0)) ∧
    MatchFails (atPos (.alignedSym 2 0) 0 0) 2 0 (.windowOverrun .offsetZero) ∧ (0 : Word).toNat = 0 + (0 : BitVec 3).toNat := by
  refine ⟨fun _ _ _ => ⟨rfl, rfl⟩, ⟨.inl ⟨rfl, rfl, rfl⟩, ?_, .inl ⟨.inl ⟨rfl, rfl⟩, .inl rfl⟩⟩,
    ⟨_, .inr (.inl ⟨rfl, rfl, rfl⟩)⟩, ⟨_, .inr (.inr (.inl ⟨rfl, rfl, rfl⟩))⟩, ⟨_, .inr (.inr (.inr (.inl ⟨rfl, rfl, rfl⟩)))⟩,
    ⟨⟨_, .inr (.inr (.inr (.inr ⟨by decide, by decide, .inl rfl, by decide, by decide +kernel, rfl⟩)))⟩, ?_,
      .inr ⟨by decide, .inl ⟨rfl, rfl⟩⟩⟩,
    ⟨⟨_, .inr (.inr (.inr (.inr ⟨by decide, by decide, .inr ⟨rfl, by decide⟩, by decide, by decide +kernel, rfl⟩)))⟩, ?_,
      .inr ⟨by decide, .inr ⟨rfl, rfl⟩⟩⟩, ?_, by decide⟩ <;> (unfold MatchFails; decide)

theorem test_hyp_PadByteRestartsSegment :
    (rawAt .uncPad [0] 0).phase = .uncPad ∧ (rawAt .uncPad [0] 0).canReadRaw 1 = true ∧
      (rawAt .uncPad [0] 1).chunk.length ≤ (rawAt .uncPad [0] 1).cur.inPos.toNat := by decide

/-- 12 bytes; and 8 and 11. -/
theorem test_hyp_UncompressedHeaderLoadsOffsets :
    (rawAt .uncHdr (List.replicate 12 0) 0).phase = .uncHdr ∧ (rawAt .uncHdr (List.replicate 12 0) 0).canReadRaw 12 = true ∧
      (rawAt .uncHdr (List.replicate 11 0) 0).canReadRaw 8 = true ∧
      (rawAt .uncHdr (List.replicate 11 0) 0).chunk.length < (rawAt .uncHdr (List.replicate 11 0) 0).cur.inPos.toNat + 12 ∧
      ChunkFits (rawAt .uncHdr (List.replicate 11 0) 0) ∧ (rawAt .uncHdr (List.replicate 8 0) 0).canReadRaw 8 = true ∧
      ChunkFits (rawAt .uncHdr (List.replicate 8 0) 0) :=
  ⟨by decide, by decide, by decide, by decide, by unfold ChunkFits; decide, by decide, by unfold ChunkFits; decide⟩

/-- Inside a run of an UNCOMPRESSED block. -/
def rawRun (chunk : List Byte) : State :=
  { rawAt .runLoop chunk 0 with run := 5, dec := { ready.dec with blockType := 3 } }

theorem test_hyp_RawByteIsCopied :
    (rawRun [7]).phase = .runLoop ∧ 0 < (rawRun [7]).run ∧ (rawRun [7]).dec.blockType = 3 ∧
      (rawRun [7]).canReadRaw 1 = true ∧ (rawRun [7]).dec.windowPos.toNat < windowSize (rawRun [7]).dec.wb ∧
      MemoryCanonical (rawRun [7]) ∧ (rawRun []).chunk.length ≤ (rawRun []).cur.inPos.toNat :=
  ⟨by decide, by decide, by decide, by decide, by decide, canonical_of (by decide), by decide⟩

/-- The registers of a SEQ_RUN at its first frame header. -/
def frameRegs (payload : List Byte) : SeqRegs := { payload := payload, pos := 0, decompressedLen := 0, out := [] }

/-- For each form: a header one byte short, a zero size, a chunk one byte short, a chunk that just fits. -/
theorem test_hyp_FrameHeaderStartsFrame :
    (∀ p, (atFrame p).phase = .frameHdr ∧ (atFrame p).seq = some (frameRegs p)) ∧
    (frameRegs [0]).payload.length < (frameRegs [0]).pos + 2 ∧
    ((frameRegs [0, 0]).pos + 2 ≤ (frameRegs [0, 0]).payload.length ∧
      (0 : Byte).toNat * 256 + ((frameRegs [0, 0]).payload.getD 1 0).toNat = 0) ∧
    (0 < ((frameRegs [0, 1]).payload.getD 1 0).toNat ∧ (frameRegs [0, 1]).payload.length < (frameRegs [0, 1]).pos + 2 + 1) ∧
    (frameRegs [0, 1, 9]).pos + 2 + 1 ≤ (frameRegs [0, 1, 9]).payload.length ∧
    (frameRegs [0xFF, 0, 5, 0]).payload.length < (frameRegs [0xFF, 0, 5, 0]).pos + 5 ∧
    (0 + 5 ≤ (frameRegs [0xFF, 0, 0, 0, 1]).payload.length ∧
      ((frameRegs [0xFF, 0, 0, 0, 1]).payload.getD 1 0).toNat * 256 +
        ((frameRegs [0xFF, 0, 0, 0, 1]).payload.getD 2 0).toNat = 0) ∧
    (0 < ((frameRegs [0xFF, 0, 5, 0, 1]).payload.getD 4 0).toNat ∧ (frameRegs [0xFF, 0, 5, 0, 1]).payload.length < 0 + 5 + 1) ∧
    0 + 5 + 1 ≤ (frameRegs [0xFF, 0, 5, 0, 1, 9]).payload.length := by
  refine ⟨fun _ => ⟨rfl, rfl⟩, ?_⟩
  decide

/-- The instruction has a next state. -/
def goesOn (i : Instr) (s : State) : Bool := nextIs (exec i s) fun _ => true

theorem goesOn_next {i : Instr} {s : State} (h : goesOn i s = true) : ∃ t, exec i s = .next t := by
  unfold goesOn nextIs at h
  split at h
  · rename_i t ht; exact ⟨t, ht⟩
  · cases h

theorem test_hyp_CommandsLeaveDecoderAlone :
    (∃ t, exec (.decompress 5 [1]) ready = .next t) ∧ (∃ t, exec (.seqRun 5 [1]) ready = .next t) ∧
      (∃ t, exec (.readState 0) ready = .next t) ∧ (∃ t, exec (.cmdReserved 0) ready = .next t) ∧
      (∃ t, exec (.frmStd 0) (atFrame [0, 1, 9]) = .next t) ∧ (∃ t, exec .frmExplicit (atFrame [0xFF]) = .next t) ∧
      (∃ t, exec (.init 15) State.reset = .next t) ∧ ∃ t, exec (.init 0) State.reset = .next t :=
  ⟨goesOn_next (by decide), goesOn_next (by decide), goesOn_next (by decide), goesOn_next (by decide),
    goesOn_next (by decide), goesOn_next (by decide), goesOn_next (by decide), goesOn_next (by decide)⟩

theorem test_hyp_HeadersLeaveTheRestAlone :
    (∃ t, exec .hdrNoE8 (reading .streamHdr []) = .next t) ∧ (∃ t, exec .hdrE8 (reading .streamHdr [1, 2, 3, 4]) = .next t) ∧
      (∃ t, exec .blkVerbatim (reading .blockHdr [1, 2, 3, 4]) = .next t) ∧
      (∃ t, exec .blkAligned (reading .blockHdr [1, 2, 3, 4]) = .next t) ∧
      (∃ t, exec .blkUncompressed (reading .blockHdr [1, 2, 3, 4]) = .next t) ∧
      (∃ t, exec .blkInvalid0 (reading .blockHdr [1, 2, 3, 4]) = .next t) ∧
      ∃ t, exec (.blkInvalid4to7 7) (reading .blockHdr [1, 2, 3, 4]) = .next t :=
  ⟨goesOn_next (by decide), goesOn_next (by decide), goesOn_next (by decide), goesOn_next (by decide),
    goesOn_next (by decide), goesOn_next (by decide), goesOn_next (by decide)⟩

theorem test_hyp_TreeElementsLeaveTheRestAlone :
    (∃ t, exec .alnLens (reading .alnLens [0, 0, 0, 0]) = .next t) ∧
      (∃ t, exec .preLens (reading (.preLens .length) (List.replicate 10 0)) = .next t) ∧
      (sameAt 16).phase = .record .main1 255 ∧ (∃ t, exec (.preDelta 16) (sameAt 16) = .next t) ∧
      (∃ t, exec .preZrun4 (sameAt 16) = .next t) ∧ (∃ t, exec .preZrun20 (sameAt 16) = .next t) ∧
      (∃ t, exec .preSame (sameAt 16) = .next t) ∧ MemoryCanonical (sameAt 16) :=
  ⟨goesOn_next (by decide +kernel), goesOn_next (by decide +kernel), by decide, goesOn_next (by decide),
    goesOn_next (by decide), goesOn_next (by decide), goesOn_next (by decide), canonical_of (by decide)⟩

theorem test_hyp_MainElementsLeaveTheRestAlone :
    (filled 21 1 [0, 0]).dec.wb.toNat ≤ 21 ∧ (∃ t, exec (.mainLit 7) (filled 21 1 [0, 0]) = .next t) ∧
      (∃ t, exec (.mainMatchR0 0) (filled 21 1 [0, 0]) = .next t) ∧
      (∃ t, exec (.mainMatchR1 0) (filled 21 1 [0, 0]) = .next t) ∧
      (∃ t, exec (.mainMatchR2 7) (filled 21 1 [0, 0]) = .next t) ∧
      (∃ t, exec (.mainMatchOne 0) (filled 21 1 [0, 0]) = .next t) ∧
      (∃ t, exec (.mainMatchVerb 4 0) (filled 21 1 [0, 0]) = .next t) ∧
      (∃ t, exec (.mainMatchAlgn 8 0) (filled 21 2 [0, 0]) = .next t) ∧
      (∃ t, exec (.lenFooter 249) (footerAt 1 0) = .next t) ∧
      ∃ t, exec (.alnSym 7) { filled 21 2 [] with phase := .alignedSym 4 14 } = .next t :=
  ⟨by decide, goesOn_next (by decide +kernel), goesOn_next (by decide +kernel), goesOn_next (by decide +kernel),
    goesOn_next (by decide +kernel), goesOn_next (by decide +kernel), goesOn_next (by decide +kernel),
    goesOn_next (by decide +kernel), goesOn_next (by decide +kernel), goesOn_next (by decide +kernel)⟩

theorem test_hyp_RawElementsLeaveTheRestAlone :
    (∃ t, exec .uncPad (rawAt .uncPad [0] 0) = .next t) ∧
      (∃ t, exec .uncHdr (rawAt .uncHdr (List.replicate 12 0) 0) = .next t) ∧ ∃ t, exec .uncByte (rawRun [7]) = .next t :=
  ⟨goesOn_next (by decide), goesOn_next (by decide), goesOn_next (by decide)⟩

/-- At the loop tests of MainLoop, with `togo` bytes to go, after a block of a type and a length with `left` bytes left. -/
def loopAt (togo : Word) (bt : BitVec 3) (length left : BitVec 24) : State :=
  { reading .mainLoop [] with
    togo := togo, dec := { ready.dec with blockType := bt, blockLength := length, blockRemaining := left } }

theorem test_hyp_MainLoopChoosesNext :
    (loopAt 0 1 8 8).phase = .mainLoop ∧ (loopAt 0 1 8 8).togo = 0 ∧ (loopAt 1 1 8 0).togo ≠ 0 ∧
      (loopAt 1 1 8 0).dec.blockRemaining = 0 ∧ (loopAt 1 1 8 0).dec.blockType ≠ 3 ∧ (loopAt 1 3 5 0).dec.blockType = 3 ∧
      (loopAt 1 3 5 0).dec.blockLength.toNat % 2 = 1 ∧ (loopAt 1 3 4 0).dec.blockLength.toNat % 2 = 0 := by decide

/-- At the start of a run with `window_pos` at WS. -/
def runAt (togo : Word) : State :=
  { loopAt togo 1 32769 32769 with dec := { (loopAt togo 1 32769 32769).dec with windowPos := 32768 } }

/-- A run that just fits the window and one a byte too long. -/
theorem test_hyp_RunStartsOrOverruns :
    (runAt 32768).phase = .mainLoop ∧ (runAt 32768).togo ≠ 0 ∧ (runAt 32768).dec.blockRemaining ≠ 0 ∧
      (runAt 32768).dec.wb.toNat ≤ 21 ∧ (runAt 32769).togo ≠ 0 ∧
      (runAt 32768).dec.windowPos.toNat % windowSize (runAt 32768).dec.wb +
        min (runAt 32768).dec.blockRemaining.toNat (runAt 32768).togo.toNat ≤ windowSize (runAt 32768).dec.wb ∧
      windowSize (runAt 32769).dec.wb < (runAt 32769).dec.windowPos.toNat % windowSize (runAt 32769).dec.wb +
        min (runAt 32769).dec.blockRemaining.toNat (runAt 32769).togo.toNat ∧
      (reading .runLoop []).phase = .runLoop ∧ (reading .runLoop []).run = 0 := by decide

/-- At the end of a record, with one code of length 1 in each array. -/
def oneCode (r : Record) (x : Nat) : State :=
  { reading (.record r x) [] with dec := { ready.dec with mainLen := [(0xE8, 1)], lengthLen := [(249, 1)] } }

/-- The end of each record: empty lengths, and one code of length 1 alone. -/
theorem test_hyp_RecordEndBuildsTrees :
    (∀ r x, (reading (.record r x) []).phase = .record r x ∧ (oneCode r x).phase = .record r x) ∧
      Record.main1.last ready.dec.wb ≤ 256 ∧ Record.main2.last ready.dec.wb ≤ 496 ∧ Record.length.last ready.dec.wb ≤ 249 ∧
      buildTable (codeLens (reading (.record .main2 496) []).dec.mainLen 656) = .ok .empty ∧
      buildTable (codeLens (reading (.record .length 249) []).dec.lengthLen 250) = .ok .empty ∧
      buildTable (codeLens (oneCode .main2 496).dec.mainLen 656) = .error .incomplete ∧
      buildTable (codeLens (oneCode .length 249).dec.lengthLen 250) = .error .incomplete :=
  ⟨fun _ _ => ⟨rfl, rfl⟩, by decide⟩

/-- At FrameOutput with every byte of the window there. -/
def outputAt (outLen : Word) (pos : BitVec 22) : State :=
  { filled 15 1 [] with phase := .frameOutput, outLen := outLen, dec := { (filled 15 1 []).dec with windowPos := pos } }

/-- `window_pos` at WS and at 0, an `out_len` that just fits and one a byte too long. -/
theorem test_hyp_FrameOutputIsWindowTail :
    (∀ n p, (outputAt n p).phase = .frameOutput ∧ ∀ k, ((outputAt n p).windowByte k).isSome = true) ∧
      ((outputAt 32768 0).dec.windowPos = 0 ∧ (outputAt 32768 0).outLen.toNat ≤ windowSize (outputAt 32768 0).dec.wb) ∧
      ((outputAt 32768 32768).dec.windowPos.toNat ≤ windowSize (outputAt 32768 32768).dec.wb ∧
        (outputAt 32768 32768).outLen.toNat ≤ (outputAt 32768 32768).dec.windowPos.toNat) ∧
      windowSize (outputAt 32769 0).dec.wb < (outputAt 32769 0).outLen.toNat :=
  ⟨fun _ _ => ⟨rfl, fun _ => rfl⟩, by decide⟩

/-- At the E8 pass. -/
def e8At (frames : BitVec 16) (size outLen : Word) (started : Bool) (mode : Config.E8Mode) : State :=
  { reading .e8Pass [] with
    params := { Config.Params.default with e8Mode := mode }
    outLen := outLen
    dec := { ready.dec with framesRead := frames, e8FileSize := size, e8Started := started } }

/-- R35: E8Unsupported after 36 raw bytes is recorded at 288 in raw mode (P5), at `8*seg_base + C` = 0 in bit mode. -/
theorem test_e8_reject_position :
    nextIs (step { e8At 0 4096 16 true .reject with cur := { mode := .raw, segBase := 0, c := 0, inPos := 36 } })
        (fun t => decide (t.stat.errCode = 8 ∧ t.stat.errPos = 288)) = true ∧
      nextIs (step { e8At 0 4096 16 true .reject with cur := { mode := .bit, segBase := 0, c := 0, inPos := 36 } })
        (fun t => decide (t.stat.errCode = 8 ∧ t.stat.errPos = 0)) = true := by decide

theorem test_hyp_E8PassFollowsCondition :
    (∀ f z n b m, (e8At f z n b m).phase = .e8Pass) ∧ 32768 ≤ (e8At 32768 1 7 true .translate).dec.framesRead.toNat ∧
      (e8At 0 0 7 true .translate).dec.e8FileSize = 0 ∧
      ((e8At 32767 1 6 true .translate).dec.framesRead.toNat < 32768 ∧ (e8At 32767 1 6 true .translate).dec.e8FileSize ≠ 0 ∧
        (e8At 32767 1 6 true .translate).outLen.toNat ≤ 6) ∧
      (e8At 32767 1 7 false .translate).dec.e8Started = false ∧
      (6 < (e8At 32767 1 7 true .translate).outLen.toNat ∧ (e8At 32767 1 7 true .translate).dec.e8Started = true ∧
        (e8At 32767 1 7 true .translate).params.e8Mode = .translate) ∧
      (e8At 32767 1 7 true .reject).params.e8Mode = .reject :=
  ⟨fun _ _ _ _ _ => rfl, by decide⟩

/-- The byte 0xE8, its operand, and ten bytes more. -/
def callAt (b0 b1 b2 b3 : Byte) : List Byte := 0xE8 :: b0 :: b1 :: b2 :: b3 :: List.replicate 10 0

/-- R150's examples: operand 0x10 at index 4 from position 0 becomes 0x0C, operand -2 at position 8 becomes 0xFFE; operand
0x2000 and, at position 8, operand -16 stay. -/
theorem test_e8_examples :
    e8Translate 0 4096 (0 :: 0 :: 0 :: 0 :: callAt 0x10 0 0 0) = 0 :: 0 :: 0 :: 0 :: callAt 0x0C 0 0 0 ∧
      e8Translate 8 4096 (callAt 0xFE 0xFF 0xFF 0xFF) = callAt 0xFE 0x0F 0 0 ∧
      e8Translate 8 4096 (callAt 0 0x20 0 0) = callAt 0 0x20 0 0 ∧
      e8Translate 8 4096 (callAt 0xF0 0xFF 0xFF 0xFF) = callAt 0xF0 0xFF 0xFF 0xFF := by decide

/-- The loop's clauses at the ends of the ranges: the last index examined and the first not, an operand of -cur, one of
fs - 1, one just below and one just above. -/
theorem test_hyp_E8TranslationBounds_loop :
    (callAt 0 0 0 0).length ≤ 5 + 10 ∧ 4 + 10 < (callAt 0 0 0 0).length ∧ (callAt 0 0 0 7)[4]? = some 7 ∧
      (callAt 0 0 0 0)[0]? = some 0xE8 ∧ (callAt 1 2 3 4)[1]? = some 1 ∧ (callAt 1 2 3 4)[4]? = some 4 ∧
      (-(8 : Int) ≤ -8 ∧ (-8 : Int) < 4096 ∧ (4095 : Int) < 4096) ∧ ¬ (-(8 : Int) ≤ -9) ∧ ¬ ((4096 : Int) < 4096) := by
  decide

theorem test_hyp_E8TranslationBounds :
    (List.replicate 10 (0xE8 : Byte)).length ≤ 10 ∧ (∀ b ∈ List.replicate 11 (0xE7 : Byte), b ≠ 0xE8) ∧
      (List.replicate 11 (0xE8 : Byte)).length ≤ 5 + 6 := by decide

theorem test_hyp_FrameIsCountedAndDelivered :
    (reading .deliver []).phase = .deliver ∧ (reading .deliver []).seq = none ∧
      ({ atFrame [] with phase := .deliver } : State).phase = .deliver ∧
      ({ atFrame [] with phase := .deliver } : State).seq = some (frameRegs []) := by decide

theorem test_hyp_SequencerLoopAndTotal :
    (∀ p, ({ atFrame [] with phase := p } : State).seq = some (frameRegs []) ∧ ({ atFrame [] with phase := p } : State).phase = p) ∧
      (frameRegs []).out.length = (frameRegs []).decompressedLen.toNat ∧
      ({ frameRegs [] with decompressedLen := 1 } : SeqRegs).out.length ≠
        ({ frameRegs [] with decompressedLen := 1 } : SeqRegs).decompressedLen.toNat :=
  ⟨fun _ => ⟨rfl, rfl⟩, by decide⟩

theorem test_hyp_RaiseRecordsAndAborts :
    (raise .invalidBlockType : M Unit).run ready = .error (.raise .invalidBlockType none) ready ∧
      (raiseAt .truncatedInput 28 : M Unit).run ready = .error (.raise .truncatedInput (some 28)) ready := ⟨rfl, rfl⟩

/-- After INIT the invariant holds, in READY and, after a fault, in FAULTED. -/
theorem test_inv_ready : ready.Inv := by
  refine ⟨⟨rfl, rfl, rfl, rfl, rfl⟩, ⟨?_, ?_, ?_, ?_⟩, ⟨.inl rfl, .inl rfl, .inl rfl, .inl rfl⟩, fun _ => ?_, ?_, trivial, ?_⟩
  · exact fun c hc => (nomatch hc)
  · exact fun c hc => (nomatch hc)
  · exact fun c hc => (nomatch hc)
  · exact fun c hc => (nomatch hc)
  · refine ⟨⟨by decide, by decide, by decide, by decide, by decide⟩, ⟨fun k h1 hk => ?_, fun h => absurd rfl h⟩, .inl rfl⟩
    have : ready.dec.written = 0 := rfl
    omega
  · exact fun h => absurd rfl h
  · show 0 < 2 ^ 32
    decide

theorem test_inv_faulted : faulted.Inv := by
  obtain ⟨h1, h2, h3, -, -, -, h7⟩ := test_inv_ready
  exact ⟨h1, h2, h3, fun h => (nomatch h), fun h => absurd rfl h, trivial, h7⟩

/-- FAULTED, with a bad INIT pending. -/
def badInit : State := { faulted with pending := [{ word := 0x00000E01, operands := [], bytes := [] }] }

/-- FAULTED, nothing pending; and a bad INIT pending. -/
theorem test_hyp_FaultedIsSticky :
    (faulted.Inv ∧ faulted.stat.status = .faulted ∧ step faulted = .next faulted ∧ faulted.pending = []) ∧
      (badInit.Inv ∧ badInit.stat.status = .faulted ∧ nextIs (step badInit) (fun _ => true) = true ∧
        decode (bare 0x00000E01) = .ok (.init 14) ∧ (14 : Byte).toNat < 15) :=
  ⟨⟨test_inv_faulted, rfl, rfl, rfl⟩, test_inv_faulted, rfl, by decide, by decide, by decide⟩

/-- A step from one phase of a command to the next, and the step that ends one. -/
theorem test_hyp_CommandsAreAtomic :
    (loopAt 0 1 8 8).phase ≠ .idle ∧ nextIs (step (loopAt 0 1 8 8)) (fun t => decide (t.phase ≠ .idle)) = true ∧
      (reading .deliver []).phase ≠ .idle ∧
      nextIs (step (reading .deliver [])) (fun t => decide (t.phase = .idle)) = true := by decide

/-- A bit reader with the four bytes of R103's example. -/
def fourRead (p : Config.PhantomFetch) : State :=
  { reading .streamHdr [0x12, 0x34, 0x56, 0x78] with params := { Config.Params.default with phantomFetch := p } }

/-- A bit reader with three bytes, under either PHANTOM_FETCH. -/
def threeBytes (p : Config.PhantomFetch) : State :=
  { reading .streamHdr [0x12, 0x34, 0x56] with params := { Config.Params.default with phantomFetch := p } }

/-- The last bits that are there, the first phantom bit, and a word half there under PHANTOM_FETCH = Fault. -/
theorem test_hyp_ReadBitsAnswersOrTruncates :
    ((threeBytes .fault).params.phantomFetch = .fault ∧ fetchesReal (threeBytes .fault).chunk.length 0 0 17 = false ∧
      fetchesReal (threeBytes .fault).chunk.length 0 0 16 = true) ∧
    (threeBytes .draw).params.phantomFetch = .draw ∧
    (∀ k, k < 16 → byteOf 0 (0 + k) < (threeBytes .draw).chunk.length) ∧
    (threeBytes .draw).chunk.length ≤ byteOf 0 (0 + 16) := by decide

/-- A fresh reader of three bytes and one that has buffered their first word, under either PHANTOM_FETCH. -/
theorem test_hyp_AccumulatorFormConforms (p : Config.PhantomFetch) :
    (accInit { acc := 5, nbits := 9, fp := 7, inPos := 0 }).represents (threeBytes p) noDraw 0 0 ∧
      ({ acc := 0x34120000, nbits := 16, fp := 2, inPos := 0 } : AccReader).represents (threeBytes p) noDraw 0 0 ∧
      1 ≤ 1 ∧ 17 ≤ 17 ∧ (threeBytes p).cur.c.toNat + 17 < 2 ^ 32 ∧ TableOk 3 .empty := by
  refine ⟨⟨by decide, by decide, by decide, by simp [accInit, segBits], fun _ h => absurd h (by decide)⟩,
    ⟨by decide, by decide, by decide, by cases p <;> decide, fun _ _ => ?_⟩, le_refl _, le_refl _, ?_, .inl rfl⟩
  · show 2 ≤ 3
    decide
  · show 0 + 17 < 2 ^ 32
    decide

/-- R103's example in the accumulator form: chunk `12 34 56 78` gives 0x3, 0x41, 0x4F0A. -/
theorem test_accumulator :
    (match accRead (fourRead .draw) noDraw 4 (accInit { acc := 0, nbits := 0, fp := 0, inPos := 0 }) with
      | .ok (a, q) =>
        (match accRead (fourRead .draw) noDraw 8 q with
          | .ok (b, t) =>
            (match accRead (fourRead .draw) noDraw 17 t with
              | .ok (c, _) => decide ((a, b, c) = (3, 0x41, 0x4F0A))
              | .error _ => false)
          | .error _ => false)
      | .error _ => false) = true := by decide

/-- R122's examples: [1,1,1] over-subscribed, [1,2] incomplete, [1,2,2] complete. -/
theorem test_hyp_BuildAcceptsExactlyCompleteSets :
    2 ^ 16 < kraftSum [(0, 1), (1, 1), (2, 1)] ∧ kraftSum [(0, 1), (1, 2)] < 2 ^ 16 ∧
      kraftSum [(0, 1), (1, 2), (2, 2)] = 2 ^ 16 := by decide

/-- R121's example: [2,1,3,3] gives symbol 1 = `0`, 0 = `10`, 2 = `110`, 3 = `111`. -/
theorem test_canonical_code :
    canonicalCode [(0, 2), (1, 1), (2, 3), (3, 3)] =
      [{ sym := 1, len := 1, code := 0 }, { sym := 0, len := 2, code := 2 }, { sym := 2, len := 3, code := 6 },
        { sym := 3, len := 3, code := 7 }] := by decide

theorem test_complete_lens : CompleteLens 3 [(0, 1), (1, 2), (2, 2)] := by
  refine ⟨fun c hc => ?_, by decide⟩
  simp only [List.mem_cons, List.not_mem_nil, or_false] at hc
  rcases hc with rfl | rfl | rfl <;> decide

/-- The first and the last pattern. -/
theorem test_hyp_CanonicalCodeCoversEveryPattern : CompleteLens 3 [(0, 1), (1, 2), (2, 2)] ∧ 0 < 2 ^ 16 ∧ 65535 < 2 ^ 16 :=
  ⟨test_complete_lens, by decide, by decide⟩

/-- R121's example. -/
theorem test_hyp_CanonicalCodeIsInOrder :
    cellsWf (some 0) ([(0, 2), (1, 1)] : Cells 5) = true ∧
    ([(0, 2), (1, 1), (2, 3), (3, 3)] : List (Nat × Nat)).Pairwise (fun a b => a.1 < b.1) ∧
    (∀ c ∈ ([(0, 2), (1, 1), (2, 3), (3, 3)] : List (Nat × Nat)), 1 ≤ c.2 ∧ c.2 ≤ 16) ∧
    (canonicalCode [(0, 2), (1, 1), (2, 3), (3, 3)])[0]? = some { sym := 1, len := 1, code := 0 } ∧
    (canonicalCode [(0, 2), (1, 1), (2, 3), (3, 3)])[1]? = some { sym := 0, len := 2, code := 2 } := by decide

theorem test_hyp_DecodeSymEqualsPeekForm :
    TableOk 3 .empty ∧ TableOk 3 (.codes (canonicalCode [(0, 1), (1, 2), (2, 2)])) :=
  ⟨.inl rfl, .inr ⟨_, test_complete_lens, rfl⟩⟩

theorem test_hyp_OffsetFormsCoverTheRange :
    (4 ≤ 4 ∧ 4 ≤ 49 ∧ 1 < 2 ^ extraBits 4) ∧ (4 ≤ 49 ∧ 49 ≤ 49 ∧ 131071 < 2 ^ extraBits 49) ∧
      (3 < 4 ∧ 4 ≤ 35 ∧ 35 < 36 ∧ 36 ≤ 36 ∧ 50 ≤ 50) ∧ (verbOffset 4 0 = 2 ∧ verbOffset 49 131071 = 2097149) ∧ 3 ≤ extraBits 8 ∧ 7 < 8 := by decide +kernel

theorem test_hyp_DecodeEncodeAgree :
    (Instr.mainMatchVerb 49 7).wellFormed = true ∧ decode (.main 2 655) = .ok (.mainMatchAlgn 49 7) ∧
      decode (bare 0x00000F01) = .ok (.init 15) ∧
      ({ word := 2, operands := [1, 5], bytes := [7] } : HostCommand).wellFormed = true ∧
      ({ word := 0xF01, operands := [], bytes := [] } : HostCommand).wellFormed = true := by decide

/-- Each clause: the phase, the opcode word readable, its decoding. -/
theorem test_hyp_StepRunsDecodedInstruction :
    (ready.phase = .idle ∧ ready.pending = []) ∧ decode (bare 0x00000F01) = .ok (.init 15) ∧
    ((atFrame [0, 1, 9]).phase = .frameHdr ∧ decode (.frm 0) = .ok (.frmStd 0)) ∧
    ((reading .streamHdr [0, 0x80]).canRead 1 = true ∧
      decode (.hdr ((reading .streamHdr [0, 0x80]).field 0 1)) = .ok .hdrE8) ∧
    ((reading .blockHdr [0, 0x40]).canRead 3 = true ∧
      decode (.blk ((reading .blockHdr [0, 0x40]).field 0 3)) = .ok .blkAligned) ∧
    (∃ t, (decodeSym (sameAt 16).dec.preTable).run (sameAt 16) = .ok 16 t) ∧
    (∃ t, (decodeSym (twoSymbolCode 655)).run (running 1 [0, 0]) = .ok 655 t) ∧
    (∃ t, (decodeSym (twoSymbolCode 249)).run (footerAt 1 0) = .ok 249 t) ∧
    (∃ t, (decodeSym (twoSymbolCode 7)).run (running 2 [0, 0]) = .ok 7 t) ∧ (0 < (rawRun [7]).run ∧ (rawRun [7]).dec.blockType = 3) :=
  ⟨by decide, by decide, by decide, by decide, by decide, ⟨_, by rfl⟩, ⟨_, by rfl⟩, ⟨_, by rfl⟩, ⟨_, by rfl⟩, by decide⟩

/-- An opcode word that cannot be read: no bit at all, a word fetched past the chunk, an EMPTY table, no bit of a code, a
frame header with no byte; a transaction that falls short, and one that does not. -/
theorem test_hyp_StepRunsDecodedInstruction_errors :
    (FieldTruncated (reading .streamHdr []) 1 0 ∧ FieldTruncated (reading .blockHdr [0]) 3 0) ∧
    FieldTruncated { reading .blockHdr [0] with params := { Config.Params.default with phantomFetch := .fault } } 3 0 ∧
    (reading (.record .main1 0) []).dec.preTable = .empty ∧ (running 1 []).dec.mainTable = .empty ∧
    SymbolTruncated (reading (.footer 1) []) [{ sym := 0, len := 1, code := 0 }] 0 ∧
    (frameRegs []).payload.length ≤ (frameRegs []).pos ∧
    fallsShort (twoOfThree 2) = true ∧ (twoOfThree 0).wellFormed = false := by
  have h : ∀ n : Nat, ∀ l : List Byte, l.length ≤ 1 → (reading .streamHdr l).endsAt 0 := fun n l hl =>
    ⟨by show l.length ≤ byteOf 0 (0 + 0); exact hl, fun k hk => absurd hk (by omega)⟩
  refine ⟨⟨.inr ⟨.inl rfl, 0, by omega, h 0 [] (by decide), rfl⟩, .inr ⟨.inl rfl, 0, by omega, h 0 [0] (by decide), rfl⟩⟩,
    .inl ⟨?_, rfl⟩, rfl, rfl, .inr ⟨.inl rfl, 0, by omega, h 0 [] (by decide), rfl, ?_⟩, by decide, by decide, by decide⟩
  · unfold State.canFetch
    decide
  · intro e he hl
    simp only [List.mem_singleton] at he
    subst he
    exact absurd hl (by decide)

theorem test_hyp_EveryStepKeepsInvariant : ready.Inv ∧ step ready = .next ready := ⟨test_inv_ready, rfl⟩

/-- A READY machine with a transaction that lacks its operand words goes on too. -/
theorem test_hyp_RunningMachineNeverStops :
    ready.Inv ∧ nextIs (step { ready with pending := [{ word := 3, operands := [0], bytes := [] }] })
      (fun t => decide (t.phase = .seqLoop ∧ t.draws = 1)) = true :=
  ⟨test_inv_ready, by decide⟩

theorem test_hyp_StepKeepsMemoryAndParameters : step ready = .next ready ∧ MemoryCanonical ready :=
  ⟨rfl, canonical_of (by decide)⟩

theorem test_hyp_RepeatedOffsetsWrittenOnlyByMatches :
    (∃ t, exec (.mainLit 7) (running 1 []) = .next t) ∧ fetch ready = .done (.next ready) :=
  ⟨goesOn_next (by decide), rfl⟩

/-- Power-on with another window and another length array. -/
def otherWindow : State :=
  { State.reset with dec := { State.reset.dec with window := [(0, 7)], written := 9, mainLen := [(0, 3)] } }

theorem test_hyp_UnspecifiedStateIsHidden :
    State.reset.phase = .idle ∧ State.reset.stat.status ≠ .ready ∧ otherWindow ≠ State.reset ∧
      otherWindow =
        { State.reset with
          dec :=
            { State.reset.dec with
              window := otherWindow.dec.window, written := otherWindow.dec.written
              mainLen := otherWindow.dec.mainLen, lengthLen := otherWindow.dec.lengthLen
              alignedLen := otherWindow.dec.alignedLen, preLen := otherWindow.dec.preLen
              preTable := otherWindow.dec.preTable, mainTable := otherWindow.dec.mainTable
              lengthTable := otherWindow.dec.lengthTable, alignedTable := otherWindow.dec.alignedTable } } ∧
      step State.reset = .next State.reset :=
  ⟨rfl, by decide, by decide, rfl, rfl⟩

end Sys2Proof.Tests
end

section
/-! SUPPORT. Every step keeps the parameters of R4 and the canonical form of memory (spec/20_memory.md R54, R55): the
relation from a step's state to the next, what the state's updates and the operations keep of it, then the
instructions, the rules between elements, and the fetch. -/

namespace Sys2Proof.Machine

variable {α β : Type}

/-! ### The relation -/

/-- From `s` to `t` the parameters stay as they are, and canonical memory stays canonical. -/
def MemoryKept (s t : State) : Prop := t.params = s.params ∧ (MemoryCanonical s → MemoryCanonical t)

/-- The operation keeps the memory, however it ends. -/
abbrev KeepsMemory (m : M α) : Prop := Keeps MemoryKept m

/-- What a fetch from `s` comes to keeps the memory: the state past the opcode word, or the next state. -/
def Fetched.MemoryKept (s : State) : Fetched → Prop
  | .run _ t => Machine.MemoryKept s t
  | .done o => ∀ t, o = .next t → Machine.MemoryKept s t

namespace MemoryKept

theorem refl (s : State) : MemoryKept s s := ⟨rfl, id⟩

theorem trans (a b c : State) : MemoryKept a b → MemoryKept b c → MemoryKept a c
  | ⟨hp, hm⟩, ⟨hp', hm'⟩ => ⟨hp'.trans hp, hm' ∘ hm⟩

/-- The cursor is no part of the memory. -/
theorem of_onlyCur {s t : State} (h : OnlyCur s t) : MemoryKept s t := by
  rw [h]
  exact ⟨rfl, id⟩

/-! An update that leaves the parameters and the five arrays as they are keeps the memory by `⟨rfl, id⟩`; those that an
operation goes on from have a name. -/

theorem pushOffset (s : State) (offset : Word) : MemoryKept s (s.pushOffset offset) := ⟨rfl, id⟩

theorem setOffsets (s : State) (a b c : Word) :
    MemoryKept s { s with dec := { s.dec with r0 := a, r1 := b, r2 := c } } := ⟨rfl, id⟩

theorem takeRun (s : State) : MemoryKept s s.takeRun := ⟨rfl, id⟩

theorem countFrame (s : State) : MemoryKept s s.countFrame := ⟨rfl, id⟩

theorem startE8 (s : State) : MemoryKept s s.startE8 := ⟨rfl, id⟩

theorem setSeq (s : State) (q : Option SeqRegs) : MemoryKept s { s with seq := q } := ⟨rfl, id⟩

/-! The updates that reach the window or a length array: each writes by `writeCell`, which keeps the canonical form. -/

theorem putByte (s : State) (v : Byte) : MemoryKept s (s.putByte v) :=
  ⟨rfl, fun ⟨hw, hlens⟩ => ⟨putByte_memory_wf hw v, hlens⟩⟩

theorem writeLens (s : State) (r : Record) (x n : Nat) (v : BitVec 5) : MemoryKept s (s.writeLens r x n v) := by
  refine ⟨State.writeLens_params s r x n v, fun h => ?_⟩
  have hr := cellsWf_fillCells n (recordLens_wf h r) x v
  obtain ⟨hw, hmain, hlength, halignedPre⟩ := h
  cases r with
  | main1 => exact ⟨hw, hr, hlength, halignedPre⟩
  | main2 => exact ⟨hw, hr, hlength, halignedPre⟩
  | length => exact ⟨hw, hmain, hr, halignedPre⟩

theorem writeAlignedLen (s : State) (i : Nat) (v : BitVec 3) :
    MemoryKept s { s with dec := { s.dec with alignedLen := writeCell (some 0) s.dec.alignedLen i v } } :=
  ⟨rfl, fun ⟨hw, hmain, hlength, haligned, hpre⟩ => ⟨hw, hmain, hlength, cellsWf_writeCell haligned i v, hpre⟩⟩

theorem writePreLen (s : State) (i : Nat) (v : BitVec 4) :
    MemoryKept s { s with dec := { s.dec with preLen := writeCell (some 0) s.dec.preLen i v } } :=
  ⟨rfl, fun ⟨hw, hmain, hlength, haligned, hpre⟩ => ⟨hw, hmain, hlength, haligned, cellsWf_writeCell hpre i v⟩⟩

/-- INIT empties every array (spec/10_state.md R40), and an empty array is canonical. -/
theorem startStream (s : State) (wb : BitVec 5) : MemoryKept s (s.startStream wb) :=
  ⟨rfl, fun _ => ⟨rfl, rfl, rfl, rfl, rfl⟩⟩

/-- What an operation keeps, its completion keeps: entering FAULTED leaves the memory. -/
theorem complete {m : M Unit} {s t : State} (h : complete m s = .next t) (hm : KeepsMemory m) : MemoryKept s t :=
  hm.complete trans (fun _ _ _ => ⟨rfl, id⟩) h

end MemoryKept

namespace KeepsMemory

/-! ### Operations -/

theorem bind {m : M α} {f : α → M β} (hm : KeepsMemory m) (hf : ∀ a, KeepsMemory (f a)) : KeepsMemory (m >>= f) :=
  Keeps.bind MemoryKept.trans hm hf

theorem pure (a : α) : KeepsMemory (pure a : M α) := Keeps.pure MemoryKept.refl a

theorem throw (e : Stop) : KeepsMemory (throw e : M α) := Keeps.throw MemoryKept.refl e

theorem raise (e : Err) : KeepsMemory (raise e : M α) := throw _

theorem raiseAt (e : Err) (pos : Nat) : KeepsMemory (raiseAt e pos : M α) := throw _

theorem outsideGrammar : KeepsMemory (outsideGrammar : M α) := throw _

/-- What would follow a raise never runs. -/
theorem raise_bind (e : Err) (f : α → M β) : KeepsMemory (Machine.raise e >>= f) := fun s => .refl s

theorem get : KeepsMemory (get : M State) := Keeps.get MemoryKept.refl

theorem modify {f : State → State} (h : ∀ s, MemoryKept s (f s)) : KeepsMemory (modify f : M PUnit) := Keeps.modify h

theorem goto (p : Phase) : KeepsMemory (goto p) := modify fun _ => ⟨rfl, id⟩

theorem reply (c : BitVec 4) (d : ReplyData) : KeepsMemory (reply c d) := modify fun _ => ⟨rfl, id⟩

/-- An operation that changes the cursor alone. -/
theorem of_onlyCur {m : M α} (h : Keeps OnlyCur m) : KeepsMemory m := fun s => .of_onlyCur (h s)

/-- An operation that ends in the state it starts in. -/
theorem of_state {m : M α} (h : ∀ s, M.finalState (m.run s) = s) : KeepsMemory m := fun s => by
  rw [h s]
  exact .refl s

/-- A read of the state, an update of what was read, and what follows. -/
theorem set_bind {s u : State} {m : M β} (hu : MemoryKept s u) (hm : KeepsMemory m) :
    MemoryKept s (M.finalState ((set u >>= fun _ => m : M β).run s)) :=
  .trans _ _ _ hu (hm u)

theorem betweenCommands : KeepsMemory betweenCommands := of_state guards_keep_state.1

theorem atPhase (p : Phase) : KeepsMemory (atPhase p) := of_state (guards_keep_state.2.1 p)

theorem inRun (ok : BitVec 3 → Bool) : KeepsMemory (inRun ok) := of_state (guards_keep_state.2.2.1 ok)

theorem inRecord : KeepsMemory inRecord := of_state guards_keep_state.2.2.2.1

theorem atPreLens : KeepsMemory atPreLens := of_state guards_keep_state.2.2.2.2.1

theorem atFrameHdr : KeepsMemory atFrameHdr := of_state guards_keep_state.2.2.2.2.2

theorem readBits (n : Nat) : KeepsMemory (readBits n) := of_onlyCur (readBits_keeps n)

theorem readRawByte : KeepsMemory readRawByte := of_onlyCur readRawByte_keeps

theorem readRaw32 : KeepsMemory readRaw32 := of_onlyCur readRaw32_keeps

theorem decodeSym (t : DecodeTable) : KeepsMemory (decodeSym t) := of_onlyCur (decodeSym_keeps t)

/-! ### The window and the matches -/

theorem winWrite (v : Byte) : KeepsMemory (winWrite v) := Keeps.get_bind fun s => by
  split
  · exact .refl s
  · exact .putByte s v

theorem winRead (addr : Nat) : KeepsMemory (winRead addr) := of_state fun _ => winRead_state addr

theorem copyBytes (offset : Nat) : ∀ n, KeepsMemory (copyBytes offset n)
  | 0 => pure _
  | n + 1 => get.bind fun _ => (winRead _).bind fun _ => (winWrite _).bind fun _ => copyBytes offset n

theorem readBytes (addr n : Nat) : KeepsMemory (readBytes addr n) := of_state fun s => readBytes_state n s addr

theorem finishMatch (length : Nat) (offset : Word) : KeepsMemory (finishMatch length offset) :=
  (of_state (checkMatch_state _ _)).bind fun _ => (copyBytes _ _).bind fun _ => modify fun _ => ⟨rfl, id⟩

theorem matchR0 (length : Nat) : KeepsMemory (matchR0 length) := get.bind fun _ => finishMatch _ _

theorem matchR1 (length : Nat) : KeepsMemory (matchR1 length) :=
  Keeps.get_bind fun _ => set_bind ⟨rfl, id⟩ (finishMatch _ _)

theorem matchR2 (length : Nat) : KeepsMemory (matchR2 length) :=
  Keeps.get_bind fun _ => set_bind ⟨rfl, id⟩ (finishMatch _ _)

theorem matchNew (length offset : Nat) : KeepsMemory (matchNew length offset) :=
  (modify fun s => .pushOffset s _).bind fun _ => finishMatch _ _

theorem matchVerb (slot length : Nat) : KeepsMemory (matchVerb slot length) :=
  (readBits _).bind fun _ => matchNew _ _

theorem matchAlgn (slot length : Nat) : KeepsMemory (matchAlgn slot length) :=
  .ite ((readBits _).bind fun _ => goto _) (.ite (goto _) ((readBits _).bind fun _ => matchNew _ _))

theorem offsetStep (slot : BitVec 6) (length : Nat) : KeepsMemory (offsetStep slot length) :=
  get.bind fun _ =>
    .ite (matchR0 _) <| .ite (matchR1 _) <| .ite (matchR2 _) <| .ite (matchNew _ _) <|
      .ite (matchVerb _ _) <| .ite (matchAlgn _ _) outsideGrammar

theorem afterHeader (slot : BitVec 6) (lh : BitVec 3) {next : Nat → M Unit} (h : ∀ n, KeepsMemory (next n)) :
    KeepsMemory (afterHeader slot lh next) :=
  .ite (goto _) (h _)

/-! ### Headers and length fields -/

theorem frameBytes (q : SeqRegs) (n : Nat) : KeepsMemory (frameBytes q n) := .ite (raiseAt _ _) (pure _)

theorem startFrameAt (q : SeqRegs) (hdrLen frameSize blockSize : Nat) :
    KeepsMemory (startFrameAt q hdrLen frameSize blockSize) :=
  (modify fun s => .setSeq s _).bind fun _ => .ite (goto _) (.ite (raiseAt _ _) (modify fun _ => ⟨rfl, id⟩))

theorem blockHeader (t : BitVec 3) : KeepsMemory (blockHeader t) :=
  (atPhase _).bind fun _ => (readBits _).bind fun _ => (readBits _).bind fun _ => modify fun _ => ⟨rfl, id⟩

theorem readAlignedLens : ∀ n i, KeepsMemory (readAlignedLens i n)
  | 0, _ => pure _
  | n + 1, i =>
    (readBits 3).bind fun _ => (modify fun s => .writeAlignedLen s _ _).bind fun _ => readAlignedLens n (i + 1)

theorem readPreLens : ∀ n i, KeepsMemory (readPreLens i n)
  | 0, _ => pure _
  | n + 1, i =>
    (readBits 4).bind fun _ => (modify fun s => .writePreLen s _ _).bind fun _ => readPreLens n (i + 1)

/-- A length array is read, its table built, and the table stored: an update that leaves the memory. -/
theorem get_build_set {w : Nat} {arr : State → Cells w} {n : Nat} {upd : State → DecodeTable → State}
    (hu : ∀ s t, MemoryKept s (upd s t)) :
    KeepsMemory (do
      let s ← (MonadState.get : M State)
      let t ← Machine.build (arr s) n
      set (upd s t)) :=
  Keeps.get_bind fun s => by
    rw [EStateM.run_bind]
    cases hb : buildTable (codeLens (arr s) n) with
    | ok t => rw [build_ok hb]; exact hu s t
    | error c => rw [build_raise hb]; exact .refl s

/-! ### The rules between elements -/

theorem startRun : KeepsMemory startRun :=
  (modify .takeRun).bind fun _ => get.bind fun _ => .ite (raise_bind _ _) (goto _)

theorem startBlockHeader : KeepsMemory startBlockHeader :=
  get.bind fun _ => .ite (goto _) (.ite ((of_onlyCur initBits_keeps).bind fun _ => goto _) (goto _))

theorem mainLoop : KeepsMemory mainLoop :=
  get.bind fun _ => .ite (goto _) (.ite startBlockHeader startRun)

theorem buildMain : KeepsMemory buildMain := get_build_set fun _ _ => ⟨rfl, id⟩

theorem buildLength : KeepsMemory buildLength := get_build_set fun _ _ => ⟨rfl, id⟩

theorem endRecord : ∀ r, KeepsMemory (endRecord r)
  | .main1 => goto _
  | .main2 => buildMain.bind fun _ => goto _
  | .length => buildLength.bind fun _ => goto _

theorem frameOutput : KeepsMemory frameOutput :=
  get.bind fun _ => .ite (raise_bind _ _) ((readBytes _ _).bind fun _ => modify fun _ => ⟨rfl, id⟩)

theorem e8Pass : KeepsMemory e8Pass := Keeps.get_bind fun s => by
  split
  · split
    · exact set_bind ⟨rfl, id⟩ (goto _)
    · split
      · exact .refl s
      · exact set_bind ⟨rfl, id⟩ (goto _)
  · exact goto _ s

theorem deliver : KeepsMemory deliver :=
  (modify .countFrame).bind fun _ => Keeps.get_bind fun s => by
    cases s.seq with
    | none => exact reply _ _ s
    | some q => exact ⟨rfl, id⟩

theorem seqLoop : KeepsMemory seqLoop := get.bind fun s => by
  cases s.seq with
  | none => exact outsideGrammar
  | some q => exact .ite (goto _) (goto _)

theorem seqFinish : KeepsMemory seqFinish := Keeps.get_bind fun s => by
  cases s.seq with
  | none => exact outsideGrammar s
  | some q =>
    dsimp only
    split
    · exact raiseAt _ _ s
    · exact set_bind ⟨rfl, id⟩ (reply _ _)

/-! ### Instructions -/

/-- INIT in both cases: what it leaves unspecified after a bad window size are registers, not memory (log 8). -/
theorem execInit {wb : BitVec 8} {s t : State} (h : execInit wb s = .next t) : MemoryKept s t :=
  .complete h <| betweenCommands.bind fun _ =>
    .ite (Keeps.get_bind fun _ => ⟨rfl, id⟩) ((modify fun s => .startStream s _).bind fun _ => reply _ _)

theorem exec {i : Instr} {s t : State} (h : exec i s = .next t) : MemoryKept s t := by
  cases i with
  | init => exact execInit h
  | decompress =>
    refine .complete h <| betweenCommands.bind fun _ => Keeps.get_bind fun s => ?_
    split
    · exact reply _ _ s
    · exact ⟨rfl, id⟩
  | seqRun =>
    refine .complete h <| betweenCommands.bind fun _ => Keeps.get_bind fun s => ?_
    split
    · exact reply _ _ s
    · exact ⟨rfl, id⟩
  | readState => exact .complete h <| betweenCommands.bind fun _ => get.bind fun _ => reply _ _
  | cmdReserved => exact .complete h <| betweenCommands.bind fun _ => reply _ _
  | hdrNoE8 => exact .complete h <| (atPhase _).bind fun _ => modify fun _ => ⟨rfl, id⟩
  | hdrE8 =>
    exact .complete h <| (atPhase _).bind fun _ => (readBits _).bind fun _ => (readBits _).bind fun _ =>
      modify fun _ => ⟨rfl, id⟩
  | blkVerbatim => exact .complete h <| (blockHeader _).bind fun _ => goto _
  | blkAligned => exact .complete h <| (blockHeader _).bind fun _ => goto _
  | blkUncompressed =>
    exact .complete h <| (blockHeader _).bind fun _ => (modify fun s => .startE8 s).bind fun _ =>
      (of_onlyCur alignToRaw_keeps).bind fun _ => goto _
  | blkInvalid0 => exact .complete h <| (blockHeader _).bind fun _ => raise _
  | blkInvalid4to7 => exact .complete h <| (blockHeader _).bind fun _ => raise _
  | alnLens =>
    exact .complete h <| (atPhase _).bind fun _ => (readAlignedLens _ _).bind fun _ =>
      get_build_set fun _ _ => ⟨rfl, id⟩
  | preLens =>
    exact .complete h <| atPreLens.bind fun _ => (readPreLens _ _).bind fun _ =>
      get_build_set fun _ _ => ⟨rfl, id⟩
  | preDelta => exact .complete h <| inRecord.bind fun _ => modify fun s => .writeLens s _ _ _ _
  | preZrun4 =>
    exact .complete h <| inRecord.bind fun _ => (readBits _).bind fun _ => modify fun s => .writeLens s _ _ _ _
  | preZrun20 =>
    exact .complete h <| inRecord.bind fun _ => (readBits _).bind fun _ => modify fun s => .writeLens s _ _ _ _
  | preSame =>
    exact .complete h <| inRecord.bind fun _ => (readBits _).bind fun _ => get.bind fun _ => (decodeSym _).bind fun _ =>
      .ite (raise_bind _ _) (modify fun s => .writeLens s _ _ _ _)
  | mainLit => exact .complete h <| (inRun _).bind fun _ => (winWrite _).bind fun _ => modify fun _ => ⟨rfl, id⟩
  | mainMatchR0 => exact .complete h <| (inRun _).bind fun _ => afterHeader _ _ matchR0
  | mainMatchR1 => exact .complete h <| (inRun _).bind fun _ => afterHeader _ _ matchR1
  | mainMatchR2 => exact .complete h <| (inRun _).bind fun _ => afterHeader _ _ matchR2
  | mainMatchOne => exact .complete h <| (inRun _).bind fun _ => afterHeader _ _ fun _ => matchNew _ _
  | mainMatchVerb => exact .complete h <| (inRun _).bind fun _ => afterHeader _ _ (matchVerb _)
  | mainMatchAlgn => exact .complete h <| (inRun _).bind fun _ => afterHeader _ _ (matchAlgn _)
  | lenFooter =>
    refine .complete h <| get.bind fun s => ?_
    split
    · exact offsetStep _ _
    · exact outsideGrammar
  | alnSym =>
    refine .complete h <| get.bind fun s => ?_
    split
    · exact matchNew _ _
    · exact outsideGrammar
  | uncPad =>
    exact .complete h <| (atPhase _).bind fun _ => readRawByte.bind fun _ =>
      (of_onlyCur initBits_keeps).bind fun _ => goto _
  | uncHdr =>
    exact .complete h <| (atPhase _).bind fun _ =>
      readRaw32.bind fun _ => (modify fun s => .setOffsets s _ _ _).bind fun _ =>
      readRaw32.bind fun _ => (modify fun s => .setOffsets s _ _ _).bind fun _ =>
      readRaw32.bind fun _ => (modify fun s => .setOffsets s _ _ _).bind fun _ => goto _
  | uncByte =>
    exact .complete h <| (inRun _).bind fun _ => readRawByte.bind fun _ => (winWrite _).bind fun _ =>
      modify fun _ => ⟨rfl, id⟩
  | frmStd => exact .complete h <| atFrameHdr.bind fun _ => (frameBytes _ _).bind fun _ => startFrameAt _ _ _ _
  | frmExplicit => exact .complete h <| atFrameHdr.bind fun _ => (frameBytes _ _).bind fun _ => startFrameAt _ _ _ _

/-! ### The fetch -/

theorem decoded {s t : State} (w : OpWord) (h : MemoryKept s t) : (decoded w t).MemoryKept s := by
  unfold Machine.decoded
  cases decode w with
  | ok i => exact h
  | error e => exact fun _ hn => nomatch hn

theorem readOpcode {m : M OpWord} (hm : KeepsMemory m) (s : State) : (readOpcode m s).MemoryKept s := by
  have hs := hm s
  unfold Machine.readOpcode
  cases hr : m.run s with
  | ok w u => rw [hr] at hs; exact decoded w hs
  | error e u => rw [hr] at hs; exact fun t ht => .trans _ _ _ hs (.complete ht (throw e))

theorem symbolWord {w : Nat} (mk : BitVec w → OpWord) (sym : Nat) : KeepsMemory (symbolWord mk sym) :=
  .ite (pure _) (throw _)

theorem fetchCommand (s : State) : (fetchCommand s).MemoryKept s := by
  unfold Machine.fetchCommand
  cases s.pending with
  | nil => rintro t ⟨⟩; exact .refl s
  | cons c rest => exact decoded _ ⟨rfl, id⟩

theorem fetchRecord (r : Record) (x : Nat) (s : State) : (fetchRecord r x s).MemoryKept s := by
  unfold Machine.fetchRecord
  split
  · exact readOpcode ((decodeSym _).bind fun _ => symbolWord _ _) s
  · exact fun t ht => .complete ht (endRecord r)

theorem fetchRun (s : State) : (fetchRun s).MemoryKept s := by
  unfold Machine.fetchRun
  split
  · rintro t ⟨⟩; exact ⟨rfl, id⟩
  · split
    · exact readOpcode ((decodeSym _).bind fun _ => symbolWord _ _) s
    · exact decoded _ (.refl s)

theorem fetchFrame (s : State) : (fetchFrame s).MemoryKept s := by
  unfold Machine.fetchFrame
  cases s.seq with
  | none => exact fun _ hn => nomatch hn
  | some q =>
    dsimp only
    cases q.payload[q.pos]? with
    | none => exact fun t ht => .complete ht (raiseAt _ _)
    | some h0 => exact decoded _ (.refl s)

theorem fetch (s : State) : (fetch s).MemoryKept s := by
  unfold Machine.fetch
  cases s.phase with
  | idle => exact fetchCommand s
  | seqLoop => exact fun t ht => .complete ht seqLoop
  | frameHdr => exact fetchFrame s
  | seqFinish => exact fun t ht => .complete ht seqFinish
  | streamHdr => exact readOpcode ((readBits _).bind fun _ => pure _) s
  | mainLoop => exact fun t ht => .complete ht mainLoop
  | uncPad => exact decoded _ (.refl s)
  | blockHdr => exact readOpcode ((readBits _).bind fun _ => pure _) s
  | alnLens => exact decoded _ (.refl s)
  | preLens => exact decoded _ (.refl s)
  | record r x => exact fetchRecord r x s
  | uncHdr => exact decoded _ (.refl s)
  | runLoop => exact fetchRun s
  | footer => exact readOpcode ((decodeSym _).bind fun _ => symbolWord _ _) s
  | alignedSym => exact readOpcode ((decodeSym _).bind fun _ => symbolWord _ _) s
  | frameOutput => exact fun t ht => .complete ht frameOutput
  | e8Pass => exact fun t ht => .complete ht e8Pass
  | deliver => exact fun t ht => .complete ht deliver

theorem step {s t : State} (h : step s = .next t) : MemoryKept s t := by
  have hf := fetch s
  unfold Machine.step at h
  cases hs : Machine.fetch s with
  | run i u => rw [hs] at hf h; exact .trans _ _ _ hf (exec h)
  | done o => rw [hs] at hf h; exact hf t h

end KeepsMemory

/-- Settles O57: a step is a fetch and an instruction, or one rule between elements, and each of them keeps the
memory. -/
theorem stepKeepsMemoryAndParameters : Obligations.StepKeepsMemoryAndParameters :=
  fun _ _ => KeepsMemory.step

end Sys2Proof.Machine
end

section
/-! SUPPORT. The register view and power-on (spec/10_state.md R39, R41), the outcome of each command between commands,
and that out of READY none of them depends on what no register shows. -/

namespace Sys2Proof.Machine

/-! ### The register view -/

theorem flag_toNat (b : Bool) : (if b then 1 else 0 : Word).toNat = b.toNat := by
  cases b <;> rfl

/-- Settles O6: the status by its number, the flags as 0 or 1, the others zero-extended from at most 32 bits. -/
theorem registerViewShowsElements : Obligations.RegisterViewShowsElements := by
  intro s
  refine ⟨congrArg statusNumber, congrArg statusNumber, congrArg statusNumber, ?_, ?_, rfl, ?_, ?_, ?_, rfl, rfl, rfl,
    ?_, ?_, ?_, flag_toNat _, ?_, rfl, rfl, flag_toNat _⟩
  all_goals exact BitVec.toNat_setWidth_of_le (by decide)

/-! ### Power-on -/

theorem LensOk.nil {w : Nat} (n : Nat) : LensOk n ([] : Cells w) := fun _ hc => nomatch hc

/-- Settles O54: the arrays are empty, the tables EMPTY, and the block is idle and not READY. -/
theorem resetMeetsInvariant : Obligations.ResetMeetsInvariant := by
  refine ⟨⟨⟨reset_memory_wf, rfl, rfl, rfl, rfl⟩, ⟨.nil _, .nil _, .nil _, .nil _⟩,
    ⟨.inl rfl, .inl rfl, .inl rfl, .inl rfl⟩, fun hr => ?_, fun hp => absurd rfl hp, trivial, ?_⟩, rfl⟩
  · exact absurd hr (by decide)
  · show 0 < 2 ^ 32
    omega

/-! ### Commands between commands -/

theorem exec_init_bad {s : State} (hp : s.phase = .idle) {wb : BitVec 8} (hwb : wb.toNat < 15 ∨ 21 < wb.toNat) :
    exec (.init wb) s = .next (s.enterFault .unsupportedWindowSize (some 0)).unspecify :=
  complete_ok (by rw [M.bind_ok (betweenCommands_ok hp), if_pos hwb]; rfl)

theorem exec_init_good {s : State} (hp : s.phase = .idle) {wb : BitVec 8} (hwb : ¬ (wb.toNat < 15 ∨ 21 < wb.toNat)) :
    exec (.init wb) s = .next ((s.startStream (wb.setWidth 5)).reply { status := 0, data := .none }) :=
  complete_ok (by rw [M.bind_ok (betweenCommands_ok hp), if_neg hwb]; rfl)

theorem exec_decompress_notReady {s : State} (hp : s.phase = .idle) (hr : s.stat.status ≠ .ready) (outLen : Word)
    (chunk : List Byte) :
    exec (.decompress outLen chunk) s = .next (s.reply { status := errCode .notReady, data := .none }) :=
  complete_ok (by rw [M.bind_ok (betweenCommands_ok hp), M.bind_ok (EStateM.run_get s), if_pos hr]; rfl)

theorem exec_seqRun_notReady {s : State} (hp : s.phase = .idle) (hr : s.stat.status ≠ .ready) (len : Word)
    (payload : List Byte) :
    exec (.seqRun len payload) s = .next (s.reply { status := errCode .notReady, data := .none }) :=
  complete_ok (by rw [M.bind_ok (betweenCommands_ok hp), M.bind_ok (EStateM.run_get s), if_pos hr]; rfl)

theorem exec_readState {s : State} (hp : s.phase = .idle) (id : BitVec 8) :
    exec (.readState id) s = .next (s.reply { status := 0, data := .value (s.register id) }) :=
  complete_ok (by rw [M.bind_ok (betweenCommands_ok hp)]; rfl)

theorem exec_cmdReserved {s : State} (hp : s.phase = .idle) (w : Word) :
    exec (.cmdReserved w) s = .next (s.reply { status := errCode .illegalCommand, data := .none }) :=
  complete_ok (by rw [M.bind_ok (betweenCommands_ok hp)]; rfl)

/-! ### What no register shows -/

/-- The state with the window, `written`, the length arrays and the tables of another decoder. -/
def State.withHidden (s : State) (d : Decoder) : State :=
  { s with
    dec :=
      { s.dec with
        window := d.window, written := d.written
        mainLen := d.mainLen, lengthLen := d.lengthLen, alignedLen := d.alignedLen, preLen := d.preLen
        preTable := d.preTable, mainTable := d.mainTable
        lengthTable := d.lengthTable, alignedTable := d.alignedTable } }

theorem register_withHidden (s : State) (d : Decoder) (id : BitVec 8) :
    (s.withHidden d).register id = s.register id := rfl

/-- What the host can see of two idle states is alike, and READY states are the same. -/
def Alike (t t' : State) : Prop :=
  t'.replies = t.replies ∧ t'.stat = t.stat ∧ t'.pending = t.pending ∧ t'.phase = .idle ∧
    (∀ id, t'.register id = t.register id) ∧ (t.stat.status = .ready → t' = t)

theorem alike_withHidden {t : State} (hp : t.phase = .idle) (hr : t.stat.status ≠ .ready) (d : Decoder) :
    Alike t (t.withHidden d) := ⟨rfl, rfl, rfl, hp, register_withHidden t d, fun h => absurd h hr⟩

theorem alike_reply {s : State} (hr : s.stat.status ≠ .ready) (d : Decoder) (r : Reply) :
    Alike (s.reply r) ((s.withHidden d).reply r) :=
  alike_withHidden (t := s.reply r) rfl hr d

/-- A command out of READY does not read what is hidden, and an INIT that succeeds writes all of it. -/
theorem decodeCommand_alike {s t : State} (hp : s.phase = .idle) (hr : s.stat.status ≠ .ready) (c : HostCommand)
    (draw : Nat) (d : Decoder) (h : exec (decodeCommand c draw) s = .next t) :
    ∃ t', exec (decodeCommand c draw) (s.withHidden d) = .next t' ∧ Alike t t' := by
  unfold decodeCommand at h ⊢
  cases hk : cmdKind c.word <;> rw [hk] at h
  case init =>
    by_cases hwb : (cmdArg c.word).toNat < 15 ∨ 21 < (cmdArg c.word).toNat
    · cases (exec_init_bad hp hwb).symm.trans h
      have hf : Status.faulted ≠ .ready := by decide
      exact ⟨_, exec_init_bad (s := s.withHidden d) hp hwb, alike_withHidden rfl hf d⟩
    · cases (exec_init_good hp hwb).symm.trans h
      exact ⟨_, exec_init_good (s := s.withHidden d) hp hwb, rfl, rfl, rfl, rfl, fun _ => rfl, fun _ => rfl⟩
  case decompress =>
    cases (exec_decompress_notReady hp hr _ _).symm.trans h
    exact ⟨_, exec_decompress_notReady (s := s.withHidden d) hp hr _ _, alike_reply hr d _⟩
  case seqRun =>
    cases (exec_seqRun_notReady hp hr _ _).symm.trans h
    exact ⟨_, exec_seqRun_notReady (s := s.withHidden d) hp hr _ _, alike_reply hr d _⟩
  case readState =>
    cases (exec_readState hp _).symm.trans h
    exact ⟨_, exec_readState (s := s.withHidden d) hp _, alike_reply hr d _⟩
  case reserved =>
    cases (exec_cmdReserved hp _).symm.trans h
    exact ⟨_, exec_cmdReserved (s := s.withHidden d) hp _, alike_reply hr d _⟩

/-- With nothing pending the block idles (log 18). -/
theorem step_idle {s : State} (hp : s.phase = .idle) (hc : s.pending = []) : step s = .next s := by
  simp only [step, fetch, hp, fetchCommand, hc]

/-- Settles O59: an idle step out of READY runs the pending command, if there is one, and none reads what is hidden. -/
theorem unspecifiedStateIsHidden : Obligations.UnspecifiedStateIsHidden := by
  intro s s' t hp hr hs' h
  obtain ⟨d, rfl⟩ : ∃ d, s' = s.withHidden d := ⟨s'.dec, hs'⟩
  show ∃ t', step (s.withHidden d) = .next t' ∧ Alike t t'
  cases hc : s.pending with
  | nil =>
    cases (step_idle hp hc).symm.trans h
    exact ⟨_, step_idle (s := s.withHidden d) hp hc, alike_withHidden hp hr d⟩
  | cons c rest =>
    rw [step_command hp hc] at h
    rw [step_command (s := s.withHidden d) hp hc]
    exact decodeCommand_alike (s := s.takeCommand c rest) hp hr c s.draws d h

end Sys2Proof.Machine
end

section
/-! SUPPORT. What an operation leaves alone, as a view of the state that it keeps; and one such view, the repeated
offsets (spec/10_state.md R24), which only matches, the UNCOMPRESSED header and INIT write. -/

namespace Sys2Proof.Machine

variable {α β γ : Type}

/-! ### Reading an opcode word moves the cursor alone -/

theorem fieldWord_keeps {n : Nat} (mk : BitVec n → OpWord) :
    Keeps OnlyCur (do let f ← readBits n; pure (mk f)) :=
  .bind OnlyCur.trans (readBits_keeps n) fun _ => .pure OnlyCur.refl _

theorem symbolWord_keeps {n : Nat} (table : DecodeTable) (mk : BitVec n → OpWord) :
    Keeps OnlyCur (do let z ← decodeSym table; symbolWord mk z) :=
  .bind OnlyCur.trans (decodeSym_keeps table) fun _ => .ite (.pure OnlyCur.refl _) (.throw OnlyCur.refl _)

/-! ### Views of the state -/

/-- From `s` to `t` the view `f` stays as it is. -/
def Same (f : State → γ) (s t : State) : Prop := f t = f s

/-- The operation leaves the view as it is, however it ends. -/
abbrev Leaves (f : State → γ) (m : M α) : Prop := Keeps (Same f) m

namespace Leaves

variable {f : State → γ}

theorem bind {m : M α} {g : α → M β} (hm : Leaves f m) (hg : ∀ a, Leaves f (g a)) : Leaves f (m >>= g) :=
  Keeps.bind (fun _ _ _ h h' => h'.trans h) hm hg

theorem pure (a : α) : Leaves f (pure a : M α) := Keeps.pure (R := Same f) (fun _ => rfl) a

theorem throw (e : Stop) : Leaves f (throw e : M α) := Keeps.throw (R := Same f) (fun _ => rfl) e

theorem get : Leaves f (get : M State) := Keeps.get (R := Same f) fun _ => rfl

/-- What would follow a raise never runs. -/
theorem raise_bind (e : Err) (g : α → M β) : Leaves f (Machine.raise e >>= g) := fun _ => rfl

theorem of_state {m : M α} (h : ∀ s, M.finalState (m.run s) = s) : Leaves f m := fun s => congrArg f (h s)

theorem of_onlyCur {m : M α} (hf : ∀ s c, f { s with cur := c } = f s) (h : Keeps OnlyCur m) : Leaves f m := fun s =>
  (congrArg f (h s)).trans (hf s _)

theorem complete {m : M Unit} {s t : State} (hf : ∀ s e p, f (s.enterFault e p) = f s) (h : complete m s = .next t)
    (hm : Leaves f m) : Same f s t :=
  Keeps.complete hm (fun _ _ _ h h' => h'.trans h) hf h

end Leaves

/-! ### The repeated offsets -/

/-- R0, R1 and R2. -/
def State.offsets (s : State) : Word × Word × Word := (s.dec.r0, s.dec.r1, s.dec.r2)

/-- The operation leaves the repeated offsets as they are. -/
abbrev LeavesOffsets (m : M α) : Prop := Leaves State.offsets m

/-- A decoded word is an instruction or is refused. -/
theorem decoded_ne_next {w : OpWord} {s t : State} : decoded w s ≠ .done (.next t) := by
  unfold decoded
  cases decode w with
  | ok i => exact fun h => nomatch h
  | error e => exact fun h => nomatch h

namespace LeavesOffsets

open Leaves

/-- An update of other elements. -/
theorem modify {f : State → State} (h : ∀ s, (f s).offsets = s.offsets) : LeavesOffsets (modify f : M PUnit) :=
  Keeps.modify h

theorem goto (p : Phase) : LeavesOffsets (goto p) := modify fun _ => rfl

theorem reply (c : BitVec 4) (d : ReplyData) : LeavesOffsets (reply c d) := modify fun _ => rfl

theorem cursor {m : M α} (h : Keeps OnlyCur m) : LeavesOffsets m := of_onlyCur (fun _ _ => rfl) h

theorem next {m : M Unit} {s t : State} (h : Machine.complete m s = .next t) (hm : LeavesOffsets m) :
    t.offsets = s.offsets :=
  hm.complete (fun _ _ _ => rfl) h

theorem readBits (n : Nat) : LeavesOffsets (readBits n) := cursor (readBits_keeps n)

theorem betweenCommands : LeavesOffsets betweenCommands := of_state guards_keep_state.1

theorem atPhase (p : Phase) : LeavesOffsets (atPhase p) := of_state (guards_keep_state.2.1 p)

theorem inRun (ok : BitVec 3 → Bool) : LeavesOffsets (inRun ok) := of_state (guards_keep_state.2.2.1 ok)

theorem inRecord : LeavesOffsets inRecord := of_state guards_keep_state.2.2.2.1

theorem atPreLens : LeavesOffsets atPreLens := of_state guards_keep_state.2.2.2.2.1

theorem atFrameHdr : LeavesOffsets atFrameHdr := of_state guards_keep_state.2.2.2.2.2

/-! ### The window, headers and length fields -/

theorem winWrite (v : Byte) : LeavesOffsets (winWrite v) := Keeps.get_bind fun s => by
  split <;> rfl

theorem copyBytes (offset : Nat) : ∀ n, LeavesOffsets (copyBytes offset n)
  | 0 => pure _
  | n + 1 => get.bind fun _ => (of_state fun _ => winRead_state _).bind fun _ => (winWrite _).bind fun _ =>
    copyBytes offset n

/-- Slot 0 takes its offset and moves none (spec/44_symbols.md R205). -/
theorem matchR0 (length : Nat) : LeavesOffsets (matchR0 length) :=
  get.bind fun _ => (of_state (checkMatch_state _ _)).bind fun _ => (copyBytes _ _).bind fun _ => modify fun _ => rfl

theorem frame (q : SeqRegs) (n frameSize blockSize : Nat) :
    LeavesOffsets (frameBytes q n >>= fun _ => startFrameAt q n frameSize blockSize) :=
  bind (.ite (throw _) (pure _)) fun _ => bind (modify fun _ => rfl) fun _ =>
    .ite (goto _) (.ite (throw _) (modify fun _ => rfl))

theorem blockHeader (t : BitVec 3) : LeavesOffsets (blockHeader t) :=
  (atPhase _).bind fun _ => (readBits _).bind fun _ => (readBits _).bind fun _ => modify fun _ => rfl

theorem readAlignedLens : ∀ n i, LeavesOffsets (readAlignedLens i n)
  | 0, _ => pure _
  | n + 1, i => (readBits 3).bind fun _ => bind (modify fun _ => rfl) fun _ => readAlignedLens n (i + 1)

theorem readPreLens : ∀ n i, LeavesOffsets (readPreLens i n)
  | 0, _ => pure _
  | n + 1, i => (readBits 4).bind fun _ => bind (modify fun _ => rfl) fun _ => readPreLens n (i + 1)

/-- What a record element writes is one length array. -/
theorem writeLens (s : State) (r : Record) (x n : Nat) (v : BitVec 5) : (s.writeLens r x n v).offsets = s.offsets := by
  simp [State.offsets]

/-- A length array is read, its table built, and the table stored. -/
theorem build {w n : Nat} {arr : State → Cells w} {upd : State → DecodeTable → State}
    (h : ∀ s t, (upd s t).offsets = s.offsets) :
    LeavesOffsets (do
      let s ← (MonadState.get : M State)
      let t ← Machine.build (arr s) n
      set (upd s t)) :=
  Keeps.get_bind fun s => by
    rw [EStateM.run_bind]
    cases hb : buildTable (codeLens (arr s) n) with
    | ok t => rw [build_ok hb]; exact h s t
    | error c => rw [build_raise hb]; rfl

/-! ### The rules between elements -/

theorem startBlockHeader : LeavesOffsets startBlockHeader :=
  get.bind fun _ => .ite (goto _) (.ite ((cursor initBits_keeps).bind fun _ => goto _) (goto _))

theorem startRun : LeavesOffsets startRun :=
  bind (modify fun _ => rfl) fun _ => get.bind fun _ => .ite (raise_bind _ _) (goto _)

theorem mainLoop : LeavesOffsets mainLoop := get.bind fun _ => .ite (goto _) (.ite startBlockHeader startRun)

theorem endRecord : ∀ r, LeavesOffsets (endRecord r)
  | .main1 => goto _
  | .main2 => bind (build fun _ _ => rfl) fun _ => goto _
  | .length => bind (build fun _ _ => rfl) fun _ => goto _

theorem frameOutput : LeavesOffsets frameOutput :=
  get.bind fun _ => .ite (raise_bind _ _) ((of_state fun s => readBytes_state _ s _).bind fun _ => modify fun _ => rfl)

theorem e8Pass : LeavesOffsets e8Pass := Keeps.get_bind fun s => by
  split
  · split
    · rfl
    · split <;> rfl
  · rfl

theorem deliver : LeavesOffsets deliver :=
  bind (modify fun _ => rfl) fun _ => Keeps.get_bind fun s => by
    cases s.seq <;> rfl

theorem seqLoop : LeavesOffsets seqLoop := get.bind fun s => by
  cases s.seq with
  | none => exact throw _
  | some q => exact .ite (goto _) (goto _)

theorem seqFinish : LeavesOffsets seqFinish := Keeps.get_bind fun s => by
  cases s.seq with
  | none => rfl
  | some q =>
    dsimp only
    split <;> rfl

/-! ### Instructions -/

/-- The instructions that write a repeated offset (spec/10_state.md R24). -/
def WritesOffsets : Instr → Prop
  | .init _ | .uncHdr | .lenFooter _ | .alnSym _ => True
  | .mainMatchR1 _ | .mainMatchR2 _ | .mainMatchOne _ | .mainMatchVerb _ _ | .mainMatchAlgn _ _ => True
  | _ => False

theorem exec {i : Instr} {s t : State} (hi : ¬ WritesOffsets i) (h : exec i s = .next t) : t.offsets = s.offsets := by
  cases i with
  | init | uncHdr | mainMatchR1 | mainMatchR2 | mainMatchOne | mainMatchVerb | mainMatchAlgn | lenFooter | alnSym =>
    exact absurd trivial hi
  | decompress =>
    exact next h <| betweenCommands.bind fun _ => Keeps.get_bind fun s => by
      split <;> rfl
  | seqRun =>
    exact next h <| betweenCommands.bind fun _ => Keeps.get_bind fun s => by
      split <;> rfl
  | readState => exact next h <| betweenCommands.bind fun _ => get.bind fun _ => reply _ _
  | cmdReserved => exact next h <| betweenCommands.bind fun _ => reply _ _
  | hdrNoE8 => exact next h <| (atPhase _).bind fun _ => modify fun _ => rfl
  | hdrE8 =>
    exact next h <| (atPhase _).bind fun _ => (readBits _).bind fun _ => (readBits _).bind fun _ => modify fun _ => rfl
  | blkVerbatim => exact next h <| (blockHeader _).bind fun _ => goto _
  | blkAligned => exact next h <| (blockHeader _).bind fun _ => goto _
  | blkUncompressed =>
    exact next h <| (blockHeader _).bind fun _ => bind (modify fun _ => rfl) fun _ =>
      (cursor alignToRaw_keeps).bind fun _ => goto _
  | blkInvalid0 => exact next h <| (blockHeader _).bind fun _ => throw _
  | blkInvalid4to7 => exact next h <| (blockHeader _).bind fun _ => throw _
  | alnLens =>
    exact next h <| (atPhase _).bind fun _ => (readAlignedLens _ _).bind fun _ => build fun _ _ => rfl
  | preLens => exact next h <| atPreLens.bind fun _ => (readPreLens _ _).bind fun _ => build fun _ _ => rfl
  | preDelta => exact next h <| inRecord.bind fun _ => modify fun s => writeLens s _ _ _ _
  | preZrun4 => exact next h <| inRecord.bind fun _ => (readBits _).bind fun _ => modify fun s => writeLens s _ _ _ _
  | preZrun20 => exact next h <| inRecord.bind fun _ => (readBits _).bind fun _ => modify fun s => writeLens s _ _ _ _
  | preSame =>
    exact next h <| inRecord.bind fun _ => (readBits _).bind fun _ => get.bind fun _ =>
      (cursor (decodeSym_keeps _)).bind fun _ => .ite (raise_bind _ _) (modify fun s => writeLens s _ _ _ _)
  | mainLit => exact next h <| (inRun _).bind fun _ => (winWrite _).bind fun _ => modify fun _ => rfl
  | mainMatchR0 => exact next h <| (inRun _).bind fun _ => .ite (goto _) (matchR0 _)
  | uncPad =>
    exact next h <| (atPhase _).bind fun _ => (cursor readRawByte_keeps).bind fun _ =>
      (cursor initBits_keeps).bind fun _ => goto _
  | uncByte =>
    exact next h <| (inRun _).bind fun _ => (cursor readRawByte_keeps).bind fun _ => (winWrite _).bind fun _ =>
      modify fun _ => rfl
  | frmStd => exact next h <| atFrameHdr.bind fun _ => frame _ _ _ _
  | frmExplicit => exact next h <| atFrameHdr.bind fun _ => frame _ _ _ _

/-! ### Steps that run no instruction -/

/-- An opcode word that cannot be read moved the cursor at most. -/
theorem readOpcode {m : M OpWord} {s t : State} (hm : Keeps OnlyCur m) (h : readOpcode m s = .done (.next t)) :
    t.offsets = s.offsets := by
  have hs := cursor hm s
  unfold Machine.readOpcode at h
  cases hr : m.run s with
  | ok w u => rw [hr] at h; exact absurd h decoded_ne_next
  | error e u =>
    rw [hr] at h hs
    exact (next (Fetched.done.inj h) (throw e)).trans hs

/-- A rule of the sequencer is the whole step. -/
theorem rule {m : M Unit} {s t : State} (hm : LeavesOffsets m)
    (h : Fetched.done (Machine.complete m s) = .done (.next t)) : t.offsets = s.offsets :=
  next (Fetched.done.inj h) hm

theorem fetchCommand {s t : State} (h : fetchCommand s = .done (.next t)) : t.offsets = s.offsets := by
  unfold Machine.fetchCommand at h
  split at h
  · cases h; rfl
  · exact absurd h decoded_ne_next

theorem fetchRecord {r : Record} {x : Nat} {s t : State} (h : fetchRecord r x s = .done (.next t)) :
    t.offsets = s.offsets := by
  unfold Machine.fetchRecord at h
  split at h
  · exact readOpcode (symbolWord_keeps _ _) h
  · exact rule (endRecord r) h

theorem fetchRun {s t : State} (h : fetchRun s = .done (.next t)) : t.offsets = s.offsets := by
  unfold Machine.fetchRun at h
  split at h
  · cases h; rfl
  split at h
  · exact readOpcode (symbolWord_keeps _ _) h
  · exact absurd h decoded_ne_next

theorem fetchFrame {s t : State} (h : fetchFrame s = .done (.next t)) : t.offsets = s.offsets := by
  unfold Machine.fetchFrame at h
  split at h
  · cases h
  split at h
  · exact rule (throw _) h
  · exact absurd h decoded_ne_next

theorem fetch {s t : State} (h : fetch s = .done (.next t)) : t.offsets = s.offsets := by
  unfold Machine.fetch at h
  cases hp : s.phase <;> rw [hp] at h
  case idle => exact fetchCommand h
  case frameHdr => exact fetchFrame h
  case record => exact fetchRecord h
  case runLoop => exact fetchRun h
  case streamHdr | blockHdr => exact readOpcode (fieldWord_keeps _) h
  case footer | alignedSym => exact readOpcode (symbolWord_keeps _ _) h
  case uncPad | alnLens | preLens | uncHdr => exact absurd h decoded_ne_next
  case seqLoop => exact rule seqLoop h
  case seqFinish => exact rule seqFinish h
  case mainLoop => exact rule mainLoop h
  case frameOutput => exact rule frameOutput h
  case e8Pass => exact rule e8Pass h
  case deliver => exact rule deliver h

end LeavesOffsets

theorem offsets_eq_iff {s t : State} :
    t.offsets = s.offsets ↔ t.dec.r0 = s.dec.r0 ∧ t.dec.r1 = s.dec.r1 ∧ t.dec.r2 = s.dec.r2 := by
  simp [State.offsets]

/-- Settles O58: the instructions it leaves to speak of are those that do not write an offset, and the rules between
elements write none. -/
theorem repeatedOffsetsWrittenOnlyByMatches : Obligations.RepeatedOffsetsWrittenOnlyByMatches := by
  refine ⟨fun s t i h hinit hunc hrep hslot hfoot haln => ?_, fun s t h => offsets_eq_iff.1 (LeavesOffsets.fetch h)⟩
  refine offsets_eq_iff.1 (LeavesOffsets.exec (fun hw => ?_) h)
  cases i with
  | init wb => exact hinit wb rfl
  | uncHdr => exact hunc rfl
  | mainMatchR1 lh => exact (hrep lh).1 rfl
  | mainMatchR2 lh => exact (hrep lh).2.1 rfl
  | mainMatchOne lh => exact (hrep lh).2.2 rfl
  | mainMatchVerb slot lh => exact (hslot slot lh).1 rfl
  | mainMatchAlgn slot lh => exact (hslot slot lh).2 rfl
  | lenFooter f => exact hfoot f rfl
  | alnSym a => exact haln a rfl
  | _ => exact hw

end Sys2Proof.Machine
end

section
/-! SUPPORT. The invariant of the machine in parts: what an operation relies on in a command in progress, and one lemma
per update of the state that says which part it keeps. -/

namespace Sys2Proof.Machine

/-! ### The parts of the invariant -/

/-- The part of the invariant that no error breaks: what the arrays and tables hold, and the chunk's length. -/
def Stored (s : State) : Prop := MemoryCanonical s ∧ LengthsInRange s ∧ TablesOk s ∧ ChunkFits s

/-- READY, with what is stored and the window in order: what a command in progress starts each element with, but for
the type of the block. -/
def Streaming (s : State) : Prop := Stored s ∧ s.stat.status = .ready ∧ WindowInRange s ∧ WrittenCovers s

/-- The block's type is a valid one. -/
def ValidBlock (s : State) : Prop := s.dec.blockType = 1 ∨ s.dec.blockType = 2 ∨ s.dec.blockType = 3

/-- Streaming, in a block whose type is valid if it has bytes left. -/
def Working (s : State) : Prop := Streaming s ∧ (s.dec.blockRemaining = 0 ∨ ValidBlock s)

/-- Inside a run, `n` bytes of which the window holds already and `run` still counts. -/
def InRun (n : Nat) (s : State) : Prop :=
  Streaming s ∧ ValidBlock s ∧ s.dec.windowPos.toNat + s.run ≤ windowSize s.dec.wb + n

/-- Inside a tree-length record with entries left. -/
def InRecord (r : Record) (x : Nat) (s : State) : Prop := Working s ∧ x < r.last s.dec.wb

theorem Stored.lengths {s : State} (h : Stored s) : LengthsInRange s := h.2.1

theorem Stored.chunkFits {s : State} (h : Stored s) : ChunkFits s := h.2.2.2

theorem Working.stored {s : State} (h : Working s) : Stored s := h.1.1

theorem Working.inv {s : State} (h : Working s) (hp : PhaseOk s) : s.Inv := by
  obtain ⟨⟨⟨hm, hl, ht, hc⟩, hr, hw, hv⟩, hb⟩ := h
  exact ⟨hm, hl, ht, fun _ => ⟨hw, hv, hb⟩, fun _ => hr, hp, hc⟩

/-- The grammar moves on to a phase that has what it relies on. -/
theorem Working.goto {s : State} (h : Working s) {p : Phase} (hp : PhaseOk (s.goto p)) : (s.goto p).Inv :=
  Working.inv (s := s.goto p) h hp

theorem InRun.stored {s : State} {n : Nat} (h : InRun n s) : Stored s := h.1.1

theorem InRun.working {s : State} {n : Nat} (h : InRun n s) : Working s := ⟨h.1, .inr h.2.1⟩

theorem InRun.runFits {s : State} (h : InRun 0 s) : RunFits s := ⟨h.2.2, h.2.1⟩

namespace State.Inv

theorem stored {s : State} (h : s.Inv) : Stored s := by
  obtain ⟨hm, hl, ht, -, -, -, hc⟩ := h
  exact ⟨hm, hl, ht, hc⟩

theorem phaseOk {s : State} (h : s.Inv) {p : Phase} (hp : s.phase = p) : PhaseOk (s.goto p) := by
  obtain ⟨-, -, -, -, -, hok, -⟩ := h
  subst hp
  exact hok

theorem working {s : State} (h : s.Inv) (hr : s.stat.status = .ready) : Working s := by
  obtain ⟨hm, hl, ht, hs, -, -, hc⟩ := h
  obtain ⟨hw, hv, hb⟩ := hs hr
  exact ⟨⟨⟨hm, hl, ht, hc⟩, hr, hw, hv⟩, hb⟩

/-- A command in progress is one of a READY block. -/
theorem busy {s : State} (h : s.Inv) {p : Phase} (hp : s.phase = p) (hi : p ≠ .idle) : Working s := by
  obtain ⟨-, -, -, -, hb, -, -⟩ := id h
  exact h.working (hb (hp ▸ hi))

/-- A phase that relies on the run to fit is inside a run. -/
theorem inRun {s : State} (h : s.Inv) {p : Phase} (hp : s.phase = p) (hi : p ≠ .idle) (hf : RunFits s) : InRun 0 s :=
  ⟨(h.busy hp hi).1, hf.2, hf.1⟩

/-- Between commands a result for the host changes nothing the invariant speaks of. -/
theorem reply {s : State} (h : s.Inv) (r : Reply) : (s.reply r).Inv := by
  obtain ⟨hm, hl, ht, hs, -, -, hc⟩ := h
  exact ⟨hm, hl, ht, hs, fun hi => absurd rfl hi, trivial, hc⟩

theorem of_onlyCur {s t : State} (h : s.Inv) (ht : OnlyCur s t) : t.Inv := by
  rw [ht]
  exact h

end State.Inv

/-! ### Commands, frames and runs -/

/-- Out of a command and not READY nothing but what is stored is spoken of. -/
theorem Stored.inv {s : State} (h : Stored s) (hr : s.stat.status ≠ .ready) (hp : s.phase = .idle) : s.Inv := by
  obtain ⟨hm, hl, ht, hc⟩ := h
  refine ⟨hm, hl, ht, fun h => absurd h hr, fun h => absurd hp h, ?_, hc⟩
  rw [PhaseOk, hp]
  trivial

theorem Stored.enterFault {s : State} (h : Stored s) (e : Err) (p : Option Nat) : (s.enterFault e p).Inv :=
  Stored.inv (s := s.enterFault e p) h (by decide : Status.faulted ≠ .ready) rfl

/-- What an INIT that failed leaves (spec/10_state.md R41). -/
theorem Stored.unspecify {s : State} (h : Stored s) (e : Err) (p : Option Nat) : (s.enterFault e p).unspecify.Inv :=
  Stored.inv (s := (s.enterFault e p).unspecify) h (by decide : Status.faulted ≠ .ready) rfl

/-- A new stream (spec/10_state.md R40): nothing is written, and under Fill every byte of the window has a value. -/
theorem Working.startStream {s : State} (h : ChunkFits s) {wb : BitVec 5} (hlo : 15 ≤ wb.toNat)
    (hhi : wb.toNat ≤ 21) : Working (s.startStream wb) := by
  have hcov : WrittenCovers (s.startStream wb) := by
    cases hw : s.params.windowInit with
    | unspecified =>
      have h0 : initialWritten s.params wb = 0 := by rw [initialWritten, hw]
      refine ⟨fun k h1 hk => ?_, fun hu => absurd hw hu⟩
      have hk : k ≤ initialWritten s.params wb := hk
      omega
    | fill v =>
      have h0 : initialWritten s.params wb = windowSize wb := by rw [initialWritten, hw]
      refine ⟨fun k _ _ => ?_, fun _ => h0⟩
      show (windowBackground s.params).isSome = true
      rw [windowBackground, hw]
      rfl
  refine ⟨⟨⟨⟨rfl, rfl, rfl, rfl, rfl⟩, ⟨.nil _, .nil _, .nil _, .nil _⟩,
    ⟨.inl rfl, .inl rfl, .inl rfl, .inl rfl⟩, h⟩, rfl, ⟨hlo, hhi, Nat.zero_le _, ?_, Nat.zero_le _⟩, hcov⟩, .inl rfl⟩
  show initialWritten s.params wb ≤ windowSize wb
  unfold initialWritten
  split
  · exact Nat.zero_le _
  · exact le_refl _

/-- The start of a frame (spec/42_commands.md R142). -/
theorem Working.startFrame {s : State} (h : Working s) {chunk : List Byte} (hc : chunk.length < 2 ^ 32)
    (outLen : Word) : (s.startFrame chunk outLen).Inv := by
  obtain ⟨⟨⟨hm, hl, ht, -⟩, hlive⟩, hb⟩ := h
  refine Working.inv ⟨⟨⟨hm, hl, ht, hc⟩, hlive⟩, hb⟩ ?_
  unfold PhaseOk State.startFrame
  cases s.dec.headerRead <;> trivial

theorem takeRun_windowPos (s : State) (hw : s.dec.windowPos.toNat % windowSize s.dec.wb < 2 ^ 22) :
    s.takeRun.dec.windowPos.toNat = s.dec.windowPos.toNat % windowSize s.dec.wb := by
  show (BitVec.ofNat 22 _).toNat = _
  rw [BitVec.toNat_ofNat, Nat.mod_eq_of_lt hw]

/-- The start of a run (spec/42_commands.md R144): `window_pos` modulo WS has the same bytes behind it. -/
theorem behind_takeRun (s : State) (hw : s.dec.windowPos.toNat % windowSize s.dec.wb < 2 ^ 22) (k : Nat) :
    s.takeRun.behind k = s.behind k := by
  have hpos := takeRun_windowPos s hw
  unfold State.behind
  rw [hpos]
  show ((((s.dec.windowPos.toNat % windowSize s.dec.wb : Nat) : Int) - k) % windowSize s.dec.wb).toNat = _
  rw [Int.natCast_emod, Int.emod_sub_emod]

theorem Working.takeRun {s : State} (h : Working s) (hb : s.dec.blockRemaining ≠ 0) : Working s.takeRun := by
  obtain ⟨⟨hst, hr, hw, hcov, hfill⟩, hbt⟩ := h
  have hle := windowSize_le hw
  have hlt := Nat.mod_lt s.dec.windowPos.toNat (windowSize_pos s.dec.wb)
  have hpos := takeRun_windowPos s (by omega)
  obtain ⟨hlo, hhi, -, hwr⟩ := hw
  refine ⟨⟨hst, hr, ⟨hlo, hhi, hpos ▸ Nat.le_of_lt hlt, hwr⟩, fun k h1 hk => ?_, hfill⟩,
    .inr (hbt.resolve_left hb)⟩
  rw [behind_takeRun s (by omega)]
  exact hcov k h1 hk

theorem Working.countFrame {s : State} (h : Working s) : Working s.countFrame := by
  obtain ⟨⟨hst, hr, ⟨hlo, hhi, hp, hwr, -⟩, hcov⟩, hb⟩ := h
  refine ⟨⟨hst, hr, ⟨hlo, hhi, hp, hwr, ?_⟩, hcov⟩, hb⟩
  show (BitVec.ofNat 16 (min (s.dec.framesRead.toNat + 1) 32768)).toNat ≤ 32768
  rw [BitVec.toNat_ofNat, Nat.mod_eq_of_lt (by omega)]
  exact Nat.min_le_right _ _

/-! ### The window -/

/-- One more byte in the window (spec/20_memory.md R55): `written` still counts the bytes behind the cursor. -/
theorem Streaming.putByte {s : State} (h : Streaming s) (hp : s.dec.windowPos.toNat < windowSize s.dec.wb) (v : Byte) :
    Streaming (s.putByte v) := by
  obtain ⟨⟨hm, hst⟩, hr, hw, hcov, hfill⟩ := h
  have hle := windowSize_le hw
  have hs : s.dec.windowPos.toNat + 1 < 2 ^ 22 := by omega
  obtain ⟨hlo, hhi, -, -, hfr⟩ := hw
  refine ⟨⟨(MemoryKept.putByte s v).2 hm, hst⟩, hr, ⟨hlo, hhi, ?_, Nat.min_le_right _ _, hfr⟩, ?_, fun hu => ?_⟩
  · rw [putByte_windowPos hs]
    exact hp
  · intro k h1 hk
    exact covered_putByte hm.1 hp hs v hcov k h1 (Nat.le_trans hk (Nat.min_le_left _ _))
  · show min (s.dec.written + 1) (windowSize s.dec.wb) = windowSize s.dec.wb
    have := hfill hu
    omega

theorem InRun.putByte {s : State} {n : Nat} (h : InRun n s) (hn : n < s.run) (v : Byte) :
    InRun (n + 1) (s.putByte v) := by
  obtain ⟨hs, hb, hf⟩ := h
  have hp : s.dec.windowPos.toNat < windowSize s.dec.wb := by omega
  have hle := windowSize_le hs.2.2.1
  refine ⟨hs.putByte hp v, hb, ?_⟩
  rw [putByte_windowPos (by omega)]
  show _ + s.run ≤ windowSize s.dec.wb + (n + 1)
  omega

/-- Bytes the window holds already are taken off the run (spec/42_commands.md R144). -/
theorem InRun.spendRun {s : State} {n : Nat} (h : InRun n s) (hn : n ≤ s.run) : (s.spendRun n).Inv := by
  refine Working.inv (s := s.spendRun n) h.working ⟨?_, h.2.1⟩
  have := h.2.2
  show s.dec.windowPos.toNat + (s.run - n) ≤ windowSize s.dec.wb
  omega

/-! ### The length arrays -/

theorem LensOk.writeCell {w n i : Nat} {m : Cells w} {bg : Option (BitVec w)} {v : BitVec w} (h : LensOk n m)
    (hi : i < n) (hv : v.toNat ≤ 16) : LensOk n (writeCell bg m i v) := fun c hc => by
  rcases mem_writeCell hc with rfl | hc
  · exact ⟨hi, hv⟩
  · exact h c hc

theorem LensOk.fillCells {w n x k : Nat} {m : Cells w} {bg : Option (BitVec w)} {v : BitVec w} (h : LensOk n m)
    (hx : x + k ≤ n) (hv : v.toNat ≤ 16) : LensOk n (fillCells bg m x k v) := fun c hc => by
  rcases mem_fillCells k hc with ⟨-, hlt, hcv⟩ | hc
  · exact ⟨by omega, hcv ▸ hv⟩
  · exact h c hc

theorem deltaLen_le (l : BitVec 5) (z : Nat) : (deltaLen l z).toNat ≤ 16 := by
  have h := deltaLen_toNat l z
  have := Int.emod_lt_of_pos ((l.toNat : Int) - z) (show (0 : Int) < 17 by omega)
  omega

theorem numSlots_le (wb : BitVec 5) : numSlots wb ≤ 50 := by
  revert wb; decide

theorem mainElements_le (wb : BitVec 5) : mainElements wb ≤ 656 := by
  have := numSlots_le wb
  unfold mainElements
  omega

/-- A run of up to 51 lengths that starts inside the record's range stays inside its array, whose size allows for it
(spec/10_state.md R33, spec/43_block_headers.md R186). -/
theorem LengthsInRange.writeLens {s : State} (h : LengthsInRange s) {r : Record} {x n : Nat} {v : BitVec 5}
    (hx : x < r.last s.dec.wb) (hn : n ≤ 51) (hv : v.toNat ≤ 16) : LengthsInRange (s.writeLens r x n v) := by
  obtain ⟨hmain, hlength, hrest⟩ := h
  cases r with
  | main1 =>
    have hx : x < 256 := hx
    exact ⟨hmain.fillCells (by omega) hv, hlength, hrest⟩
  | main2 =>
    have hx : x < 656 := Nat.lt_of_lt_of_le hx (mainElements_le _)
    exact ⟨hmain.fillCells (by omega) hv, hlength, hrest⟩
  | length =>
    have hx : x < 249 := hx
    exact ⟨hmain, hlength.fillCells (by omega) hv, hrest⟩

theorem InRecord.writeLens {s : State} {r : Record} {x n : Nat} {v : BitVec 5} (h : InRecord r x s) (hn : n ≤ 51)
    (hv : v.toNat ≤ 16) : (s.writeLens r x n v).Inv := by
  obtain ⟨⟨⟨⟨hm, hl, ht, hc⟩, hlive⟩, hb⟩, hx⟩ := h
  have hm' := (MemoryKept.writeLens s r x n v).2 hm
  have hl' := hl.writeLens hx hn hv
  refine Working.inv ?_ trivial
  cases r <;> exact ⟨⟨⟨hm', hl', ht, hc⟩, hlive⟩, hb⟩

theorem Working.writeAlignedLen {s : State} (h : Working s) {i : Nat} (hi : i < 8) (v : BitVec 3) :
    Working { s with dec := { s.dec with alignedLen := writeCell (some 0) s.dec.alignedLen i v } } := by
  obtain ⟨⟨⟨hm, ⟨hmain, hlength, haligned, hpre⟩, hrest⟩, hlive⟩, hb⟩ := h
  have hl := haligned.writeCell (bg := some 0) (v := v) hi (by omega)
  exact ⟨⟨⟨(MemoryKept.writeAlignedLen s i v).2 hm, ⟨hmain, hlength, hl, hpre⟩, hrest⟩, hlive⟩, hb⟩

theorem Working.writePreLen {s : State} (h : Working s) {i : Nat} (hi : i < 20) (v : BitVec 4) :
    Working { s with dec := { s.dec with preLen := writeCell (some 0) s.dec.preLen i v } } := by
  obtain ⟨⟨⟨hm, ⟨hmain, hlength, haligned, hpre⟩, hrest⟩, hlive⟩, hb⟩ := h
  have hl := hpre.writeCell (bg := some 0) (v := v) hi (by omega)
  exact ⟨⟨⟨(MemoryKept.writePreLen s i v).2 hm, ⟨hmain, hlength, haligned, hl⟩, hrest⟩, hlive⟩, hb⟩

/-! ### The decode tables -/

/-- Build takes its symbols from the alphabet, each with a length of 1 to 16 (spec/41_huffman.md R120). -/
theorem codeLens_range {w n : Nat} {m : Cells w} (h : ∀ c ∈ m, c.2.toNat ≤ 16) :
    ∀ c ∈ codeLens m n, c.1 < n ∧ 1 ≤ c.2 ∧ c.2 ≤ 16 := by
  intro c hc
  obtain ⟨d, hd, rfl⟩ := List.mem_map.1 hc
  obtain ⟨hdm, hd⟩ := List.mem_filter.1 hd
  simp only [Bool.and_eq_true, decide_eq_true_eq] at hd
  refine ⟨hd.1, Nat.pos_of_ne_zero fun h0 => hd.2 (BitVec.eq_of_toNat_eq (by simpa using h0)), h d hdm⟩

/-- What Build returns is EMPTY or the canonical code of a complete set (spec/41_huffman.md R122, R125). -/
theorem tableOk_of_buildTable {w n N : Nat} {m : Cells w} {t : DecodeTable} (h : LensOk N m)
    (ht : buildTable (codeLens m n) = .ok t) : TableOk n t := by
  unfold buildTable at ht
  split at ht
  · cases ht; exact .inl rfl
  split at ht
  · cases ht
  split at ht
  · cases ht
  · cases ht
    exact .inr ⟨codeLens m n, ⟨codeLens_range fun c hc => (h c hc).2, by omega⟩, rfl⟩

theorem Working.setPreTable {s : State} (h : Working s) {t : DecodeTable} (ht : TableOk 20 t) :
    Working { s with dec := { s.dec with preTable := t } } := by
  obtain ⟨⟨⟨hm, hl, ⟨-, hrest⟩, hc⟩, hlive⟩, hb⟩ := h
  exact ⟨⟨⟨hm, hl, ⟨ht, hrest⟩, hc⟩, hlive⟩, hb⟩

/-- The main table comes with `e8_started` (spec/43_block_headers.md R176). -/
theorem Working.setMainTable {s : State} (h : Working s) {t : DecodeTable} (ht : TableOk 656 t) (started : Bool) :
    Working { s with dec := { s.dec with mainTable := t, e8Started := started } } := by
  obtain ⟨⟨⟨hm, hl, ⟨hpre, -, hrest⟩, hc⟩, hlive⟩, hb⟩ := h
  exact ⟨⟨⟨hm, hl, ⟨hpre, ht, hrest⟩, hc⟩, hlive⟩, hb⟩

theorem Working.setLengthTable {s : State} (h : Working s) {t : DecodeTable} (ht : TableOk 250 t) :
    Working { s with dec := { s.dec with lengthTable := t } } := by
  obtain ⟨⟨⟨hm, hl, ⟨hpre, hmain, -, haligned⟩, hc⟩, hlive⟩, hb⟩ := h
  exact ⟨⟨⟨hm, hl, ⟨hpre, hmain, ht, haligned⟩, hc⟩, hlive⟩, hb⟩

theorem Working.setAlignedTable {s : State} (h : Working s) {t : DecodeTable} (ht : TableOk 8 t) :
    Working { s with dec := { s.dec with alignedTable := t } } := by
  obtain ⟨⟨⟨hm, hl, ⟨hpre, hmain, hlength, -⟩, hc⟩, hlive⟩, hb⟩ := h
  exact ⟨⟨⟨hm, hl, ⟨hpre, hmain, hlength, ht⟩, hc⟩, hlive⟩, hb⟩

end Sys2Proof.Machine
end

section
/-! SUPPORT. Where the operations end: the rules for operations in sequence, the guards, and each shared operation from a
state that has what it relies on. -/

namespace Sys2Proof.Machine

variable {α β : Type}

/-- From `s` the operation answers with `Q`, or it stops with what is stored in order. -/
def Ends (m : M α) (s : State) (Q : α → State → Prop) : Prop :=
  match m.run s with
  | .ok a t => Q a t
  | .error _ t => Stored t

/-- From `s` the operation ends in the invariant. -/
abbrev EndsInv (m : M Unit) (s : State) : Prop := Ends m s fun _ t => t.Inv

namespace Ends

variable {s : State} {Q : α → State → Prop} {R : β → State → Prop}

theorem of_run {m : M α} (hok : ∀ a t, m.run s = .ok a t → Q a t) (hs : Stored (M.finalState (m.run s))) :
    Ends m s Q := by
  unfold Ends
  cases hm : m.run s with
  | ok a t => exact hok a t hm
  | error e t => rwa [hm] at hs

theorem bind {m : M α} {f : α → M β} (hm : Ends m s Q) (hf : ∀ a t, Q a t → Ends (f a) t R) :
    Ends (m >>= f) s R := by
  unfold Ends at hm ⊢
  rw [EStateM.run_bind]
  cases hr : m.run s with
  | ok a t => rw [hr] at hm; exact hf a t hm
  | error e t => rw [hr] at hm; exact hm

/-- A read of the state, and what follows it. -/
theorem get_bind {f : State → M β} (h : Ends (f s) s R) : Ends ((MonadState.get : M State) >>= f) s R := h

/-- An update of the state, and what follows it. -/
theorem modify_bind {f : State → State} {g : PUnit → M β} (h : Ends (g ⟨⟩) (f s) R) : Ends (modify f >>= g) s R := h

/-- An operation that ends in the state it starts in. -/
theorem same {m : M α} (hm : M.finalState (m.run s) = s) (h : Stored s) (hok : ∀ a t, m.run s = .ok a t → Q a t) :
    Ends m s Q := of_run hok (hm.symm ▸ h)

/-- What does not speak of the cursor stays true over an operation that changes the cursor alone. -/
theorem onlyCur {m : M α} {P : State → Prop} (hm : Keeps OnlyCur m) (hP : ∀ u c, P u → P { u with cur := c })
    (hS : ∀ u, P u → Stored u) (h : P s) : Ends m s fun _ => P := by
  have hc : P (M.finalState (m.run s)) := (hm s).symm ▸ hP s _ h
  refine of_run (fun a t ha => ?_) (hS _ hc)
  rwa [ha] at hc

theorem cursor {m : M α} (hm : Keeps OnlyCur m) (h : Working s) : Ends m s fun _ => Working :=
  onlyCur hm (fun _ _ h => h) (fun _ => Working.stored) h

theorem cursorInRun {m : M α} {n : Nat} (hm : Keeps OnlyCur m) (h : InRun n s) : Ends m s fun _ => InRun n :=
  onlyCur hm (fun _ _ h => h) (fun _ => InRun.stored) h

theorem cursorInRecord {m : M α} {r : Record} {x : Nat} (hm : Keeps OnlyCur m) (h : InRecord r x s) :
    Ends m s fun _ => InRecord r x :=
  onlyCur hm (fun _ _ h => h) (fun _ h => h.1.stored) h

/-- Run to its end, the errors of the spec taken, the operation leaves the invariant. -/
theorem complete {m : M Unit} {t : State} (h : complete m s = .next t) (hm : EndsInv m s) : t.Inv := by
  unfold EndsInv Ends at hm
  rcases complete_eq_next h with hr | ⟨e, p, u, hr, rfl⟩
  · rwa [hr] at hm
  · rw [hr] at hm
    exact hm.enterFault e p

/-! ### Guards -/

theorem betweenCommands (h : s.Inv) : Ends betweenCommands s fun _ t => t.Inv ∧ t.phase = .idle :=
  same (guards_keep_state.1 s) h.stored fun _ _ ht => by
    obtain ⟨rfl, hp⟩ := betweenCommands_eq_ok ht
    exact ⟨h, hp⟩

theorem atPhase (h : s.Inv) {p : Phase} (hi : p ≠ .idle) : Ends (atPhase p) s fun _ => Working :=
  same (guards_keep_state.2.1 p s) h.stored fun _ _ ht => by
    obtain ⟨rfl, hp⟩ := atPhase_eq_ok ht
    exact h.busy hp hi

theorem inRun (h : s.Inv) (ok : BitVec 3 → Bool) :
    Ends (inRun ok) s fun _ t => InRun 0 t ∧ 0 < t.run ∧ ok t.dec.blockType = true :=
  same (guards_keep_state.2.2.1 ok s) h.stored fun _ _ ht => by
    obtain ⟨rfl, hp, hr⟩ := inRun_eq_ok ht
    exact ⟨h.inRun hp (by decide) (h.phaseOk hp), hr⟩

theorem inRecord (h : s.Inv) : Ends inRecord s fun q t => InRecord q.1 q.2 t :=
  same (guards_keep_state.2.2.2.1 s) h.stored fun _ _ ht => by
    obtain ⟨rfl, hp, hx⟩ := inRecord_eq_ok ht
    exact ⟨h.busy hp (by simp), hx⟩

theorem atPreLens (h : s.Inv) : Ends atPreLens s fun _ => Working :=
  same (guards_keep_state.2.2.2.2.1 s) h.stored fun _ _ ht => by
    obtain ⟨rfl, hp⟩ := atPreLens_eq_ok ht
    exact h.busy hp (by simp)

theorem atFrameHdr (h : s.Inv) : Ends atFrameHdr s fun _ => Working :=
  same (guards_keep_state.2.2.2.2.2 s) h.stored fun _ _ ht => by
    obtain ⟨rfl, hp, -⟩ := atFrameHdr_eq_ok ht
    exact h.busy hp (by decide)

end Ends

/-! ### The window and the matches -/

/-- The length check of R213 has let the match through. -/
theorem checkMatch_eq_ok {s t : State} {length offset : Nat} (h : (checkMatch length offset).run s = .ok () t) :
    t = s ∧ length ≤ s.run := by
  have hs := checkMatch_state length offset s
  rw [h] at hs
  refine ⟨hs, ?_⟩
  by_contra hlen
  have hlt : s.run < length := by omega
  unfold checkMatch at h
  rw [M.bind_ok (EStateM.run_get s)] at h
  by_cases hcross : windowSize s.dec.wb < s.dec.windowPos.toNat + length
  · simp [hcross] at h
  · simp [hcross, hlt] at h

theorem codedBlock_types (t : BitVec 3) (h : codedBlock t = true) : t = 1 ∨ t = 2 := by
  simpa [codedBlock] using h

namespace Ends

variable {s : State}

theorem winWrite {n : Nat} (h : InRun n s) (hn : n < s.run) (v : Byte) :
    Ends (winWrite v) s fun _ t => InRun (n + 1) t ∧ t.run = s.run := by
  have hp : s.dec.windowPos.toNat < windowSize s.dec.wb := by have := h.2.2; omega
  unfold Ends
  rw [winWrite_ok hp v]
  exact ⟨h.putByte hn v, rfl⟩

theorem winRead {n : Nat} (h : InRun n s) (addr : Nat) :
    Ends (winRead addr) s fun _ t => t = s :=
  same (winRead_state addr) h.stored fun _ _ ht => by simpa [ht] using winRead_state (s := s) addr

theorem copyBytes (offset : Nat) : ∀ {k n : Nat} {s : State}, InRun n s → n + k ≤ s.run →
    Ends (copyBytes offset k) s fun _ t => InRun (n + k) t ∧ n + k ≤ t.run
  | 0, _, _, h, hk => ⟨h, hk⟩
  | k + 1, n, s, h, hk => by
    refine get_bind <| Ends.bind (winRead h _) fun v t ht => ?_
    subst ht
    refine Ends.bind (winWrite h (by omega) v) fun _ u ⟨hu, hru⟩ => ?_
    rw [show n + (k + 1) = n + 1 + k by omega]
    exact copyBytes offset hu (by omega)

theorem finishMatch (h : InRun 0 s) (length : Nat) (offset : Word) : EndsInv (finishMatch length offset) s := by
  have hcheck : Ends (checkMatch length offset.toNat) s fun _ t => t = s ∧ length ≤ s.run :=
    same (checkMatch_state _ _ s) h.stored fun _ _ => checkMatch_eq_ok
  refine hcheck.bind fun _ t ⟨ht, hlen⟩ => ?_
  subst ht
  refine (copyBytes offset.toNat (k := length) h (by omega)).bind fun _ u ⟨hu, hk⟩ => ?_
  rw [Nat.zero_add] at hu hk
  exact hu.spendRun hk

theorem matchR0 (h : InRun 0 s) (length : Nat) : EndsInv (matchR0 length) s := finishMatch h length s.dec.r0

theorem matchR1 (h : InRun 0 s) (length : Nat) : EndsInv (matchR1 length) s :=
  finishMatch (s := s.swapR1) h length s.dec.r1

theorem matchR2 (h : InRun 0 s) (length : Nat) : EndsInv (matchR2 length) s :=
  finishMatch (s := s.swapR2) h length s.dec.r2

theorem matchNew (h : InRun 0 s) (length offset : Nat) : EndsInv (matchNew length offset) s :=
  finishMatch (s := s.pushOffset (narrow offset)) h length (narrow offset)

theorem matchVerb (h : InRun 0 s) (slot length : Nat) : EndsInv (matchVerb slot length) s :=
  (cursorInRun (readBits_keeps _) h).bind fun _ _ ht => matchNew ht _ _

theorem alignedSym (h : InRun 0 s) (length base : Nat) : EndsInv (Machine.goto (.alignedSym length base)) s :=
  h.working.goto h.runFits

theorem matchAlgn (h : InRun 0 s) (slot length : Nat) : EndsInv (matchAlgn slot length) s := by
  rw [matchAlgn_eq]
  split
  · exact (cursorInRun (readBits_keeps _) h).bind fun _ _ ht => alignedSym ht _ _
  · split
    · exact alignedSym h _ _
    · exact matchVerb h slot length

theorem offsetStep (h : InRun 0 s) (slot : BitVec 6) (length : Nat) : EndsInv (offsetStep slot length) s := by
  show EndsInv (ite _ _ _) s
  split
  · exact matchR0 h _
  split
  · exact matchR1 h _
  split
  · exact matchR2 h _
  split
  · exact matchNew h _ _
  split
  · exact matchVerb h _ _
  split
  · exact matchAlgn h _ _
  · exact h.stored

/-- After the main symbol of a match in a coded block: its footer is awaited, or its offset step is taken (R203). -/
theorem matchElement {ok : BitVec 3 → Bool} {lh : BitVec 3} {next : Nat → M Unit} (h : s.Inv) (slot : BitVec 6)
    (hok : ∀ t, ok t = true → t = 1 ∨ t = 2) (hnext : ∀ t n, InRun 0 t → EndsInv (next n) t) :
    EndsInv (Machine.inRun ok >>= fun _ => afterHeader slot lh next) s := by
  refine (Ends.inRun h ok).bind fun _ t ⟨ht, _, hb⟩ => ?_
  unfold afterHeader
  split
  · exact ht.working.goto ⟨ht.runFits, hok _ hb⟩
  · exact hnext t _ ht

/-! ### Length arrays and tables -/

/-- A table is built from a length array, or the lengths are bad (R122, R123). -/
theorem build {w n N : Nat} {m : Cells w} (h : Stored s) (hm : LensOk N m) :
    Ends (build m n) s fun t u => u = s ∧ TableOk n t := by
  unfold Ends
  cases hb : buildTable (codeLens m n) with
  | ok t => rw [build_ok hb]; exact ⟨rfl, tableOk_of_buildTable hm hb⟩
  | error c => rw [build_raise hb]; exact h

/-- A length array is read, its table built, and the table stored. -/
theorem build_set {w n N : Nat} {arr : State → Cells w} {upd : State → DecodeTable → State} {P : State → Prop}
    (h : Stored s) (hm : LensOk N (arr s)) (hu : ∀ t, TableOk n t → P (upd s t)) :
    Ends (do
      let s ← (MonadState.get : M State)
      let t ← Machine.build (arr s) n
      set (upd s t)) s fun _ => P := by
  refine get_bind <| (build h hm).bind fun t u ⟨hs, ht⟩ => ?_
  subst hs
  exact hu t ht

theorem readAlignedLens : ∀ {n i : Nat} {s : State}, Working s → i + n ≤ 8 →
    Ends (readAlignedLens i n) s fun _ => Working
  | 0, _, _, h, _ => h
  | n + 1, i, _, h, hi =>
    (cursor (readBits_keeps 3) h).bind fun v _ ht =>
      modify_bind <| readAlignedLens (ht.writeAlignedLen (i := i) (by omega) v) (by omega)

theorem readPreLens : ∀ {n i : Nat} {s : State}, Working s → i + n ≤ 20 →
    Ends (readPreLens i n) s fun _ => Working
  | 0, _, _, h, _ => h
  | n + 1, i, _, h, hi =>
    (cursor (readBits_keeps 4) h).bind fun v _ ht =>
      modify_bind <| readPreLens (ht.writePreLen (i := i) (by omega) v) (by omega)

/-! ### Headers -/

/-- The three elements of a block header are read (R172); whether the type is valid is not known yet. -/
theorem blockHeader (h : s.Inv) (t : BitVec 3) :
    Ends (blockHeader t) s fun _ u => Streaming u ∧ u.dec.blockType = t := by
  refine (atPhase h (by decide)).bind fun _ _ h => ?_
  refine (cursor (readBits_keeps 16) h).bind fun _ _ h => ?_
  refine (cursor (readBits_keeps 8) h).bind fun _ _ h => ?_
  exact ⟨h.1, rfl⟩

theorem frameBytes (h : Working s) (q : SeqRegs) (n : Nat) : Ends (frameBytes q n) s fun _ => Working := by
  unfold Machine.frameBytes
  split
  · exact h.stored
  · exact h

/-- After a frame header (spec/45_frame_sequencer.md R232): the chunk of the frame has a 16-bit length. -/
theorem startFrameAt (h : Working s) (q : SeqRegs) (hdrLen frameSize : Nat) {blockSize : Nat}
    (hb : blockSize < 2 ^ 32) : EndsInv (startFrameAt q hdrLen frameSize blockSize) s := by
  have hw : Working { s with seq := some { q with pos := q.pos + hdrLen } } := h
  refine modify_bind ?_
  split
  · exact hw.goto rfl
  split
  · exact hw.stored
  · exact hw.startFrame (by rw [List.length_take]; omega) _

end Ends

end Sys2Proof.Machine
end

section
/-! SUPPORT. Every step keeps the invariant: the chunk a command brings, the rules between elements, the instructions,
and the fetch. -/

namespace Sys2Proof.Machine

/-! ### The chunk of a frame (spec/20_memory.md R50) -/

/-- The chunk a DECOMPRESS brings with it has a 32-bit length (spec/20_memory.md R50). -/
def ChunkBounded : Instr → Prop
  | .decompress _ chunk => chunk.length < 2 ^ 32
  | _ => True

/-- The bytes of a command are counted by an operand word (spec/30_encoding.md R71). -/
theorem chunkBounded_decodeCommand (c : HostCommand) (draw : Nat) : ChunkBounded (decodeCommand c draw) := by
  unfold decodeCommand
  cases cmdKind c.word with
  | decompress =>
    show (commandBytes c draw (operandWord c draw 0).toNat).length < 2 ^ 32
    rw [commandBytes_length]
    exact (operandWord c draw 0).isLt
  | _ => trivial

theorem chunkBounded_decodeBlk (t : BitVec 3) : ChunkBounded (decodeBlk t) := by
  unfold decodeBlk
  split_ifs <;> trivial

theorem chunkBounded_decodeMatch (t : BitVec 3) (slot : BitVec 6) (lh : BitVec 3) :
    ChunkBounded (decodeMatch t slot lh) := by
  unfold decodeMatch
  split_ifs <;> trivial

theorem chunkBounded_of_decode {w : OpWord} {i : Instr} (h : decode w = .ok i) : ChunkBounded i := by
  cases w with
  | cmd c draw => cases h; exact chunkBounded_decodeCommand c draw
  | hdr f => cases h; unfold decodeHdr; split <;> trivial
  | blk t => cases h; exact chunkBounded_decodeBlk t
  | pre z => simp only [decode, decodePre] at h; split_ifs at h <;> cases h <;> trivial
  | main t s =>
    simp only [decode, decodeMain] at h
    split_ifs at h <;> cases h
    · trivial
    · exact chunkBounded_decodeMatch t _ _
  | len f => simp only [decode, decodeLen] at h; split_ifs at h; cases h; trivial
  | frm h0 => cases h; unfold decodeFrm; split <;> trivial
  | _ => cases h; trivial

theorem frameField_lt (hi lo : Byte) : frameField hi lo < 2 ^ 32 := by
  have := hi.isLt
  have := lo.isLt
  unfold frameField
  omega

namespace Ends

variable {s : State}

/-! ### The rules between elements -/

theorem startRun (h : Working s) (hb : s.dec.blockRemaining ≠ 0) : EndsInv startRun s := by
  have ht := h.takeRun hb
  refine modify_bind ?_
  show EndsInv (ite _ _ _) s.takeRun
  split
  · exact ht.stored
  · next hfit => exact ht.goto ⟨Nat.le_of_not_lt hfit, h.2.resolve_left hb⟩

theorem startBlockHeader (h : Working s) : EndsInv startBlockHeader s := by
  show EndsInv (ite _ _ _) s
  split
  · exact h.goto trivial
  split
  · exact (cursor initBits_keeps h).bind fun _ _ ht => ht.goto trivial
  · exact h.goto trivial

theorem mainLoop (h : Working s) : EndsInv mainLoop s := by
  show EndsInv (ite _ _ _) s
  split
  · exact h.goto trivial
  split
  · exact startBlockHeader h
  · next hb => exact startRun h hb

theorem buildMain (h : Working s) : Ends buildMain s fun _ => Working :=
  build_set h.stored h.stored.lengths.1 fun _ ht => h.setMainTable ht _

theorem buildLength (h : Working s) : Ends buildLength s fun _ => Working :=
  build_set h.stored h.stored.lengths.2.1 fun _ ht => h.setLengthTable ht

theorem endRecord (h : Working s) : ∀ r, EndsInv (endRecord r) s
  | .main1 => h.goto trivial
  | .main2 => (buildMain h).bind fun _ _ ht => ht.goto trivial
  | .length => (buildLength h).bind fun _ _ ht => ht.goto trivial

theorem readBytes (h : Working s) (addr n : Nat) : Ends (readBytes addr n) s fun _ => Working :=
  same (readBytes_state n s addr) h.stored fun _ t ht => by
    have hs : t = s := by simpa [ht] using readBytes_state n s addr
    exact hs ▸ h

theorem frameOutput (h : Working s) : EndsInv frameOutput s := by
  refine get_bind ?_
  dsimp only
  generalize (if s.dec.windowPos ≠ 0 then s.dec.windowPos.toNat else windowSize s.dec.wb) = stop
  split
  · exact h.stored
  · exact (readBytes h _ _).bind fun _ t ht => Working.inv ht trivial

theorem e8Pass (h : Working s) : EndsInv e8Pass s := by
  refine get_bind ?_
  split
  · split
    · exact Working.inv h trivial
    split
    · exact h.stored
    · exact Working.inv h trivial
  · exact h.goto trivial

theorem deliver (h : Working s) : EndsInv deliver s := by
  have ht := h.countFrame
  refine modify_bind <| get_bind ?_
  split
  · exact Working.inv ht trivial
  · exact Working.inv ht rfl

theorem seqLoop (h : Working s) : EndsInv seqLoop s := by
  refine get_bind ?_
  split
  · exact h.stored
  · next q hq =>
    have hs : s.seq.isSome = true := by rw [hq]; rfl
    split
    · exact h.goto hs
    · exact h.goto hs

theorem seqFinish (h : Working s) : EndsInv seqFinish s := by
  refine get_bind ?_
  split
  · exact h.stored
  split
  · exact h.stored
  · exact Working.inv h trivial

/-! ### Instructions -/

theorem execInit {wb : BitVec 8} {s t : State} (hs : s.Inv) (h : execInit wb s = .next t) : t.Inv := by
  refine complete h <| (betweenCommands hs).bind fun _ u ⟨hu, _⟩ => ?_
  split
  · exact hu.stored.unspecify _ _
  · next hwb =>
    have hm : (wb.setWidth 5).toNat = wb.toNat := by
      rw [BitVec.toNat_setWidth, Nat.mod_eq_of_lt (by omega)]
    have hw : Working (u.startStream (wb.setWidth 5)) := .startStream hu.stored.chunkFits (by omega) (by omega)
    exact Working.inv (s := (u.startStream _).reply _) hw trivial

theorem exec {i : Instr} {s t : State} (hs : s.Inv) (hi : ChunkBounded i) (h : exec i s = .next t) : t.Inv := by
  cases i with
  | init => exact execInit hs h
  | decompress =>
    refine complete h <| (betweenCommands hs).bind fun _ u ⟨hu, _⟩ => get_bind ?_
    split
    · exact hu.reply _
    · next hr => exact Working.startFrame (s := { u with seq := none }) (hu.working (not_not.1 hr)) hi _
  | seqRun =>
    refine complete h <| (betweenCommands hs).bind fun _ u ⟨hu, _⟩ => get_bind ?_
    split
    · exact hu.reply _
    · next hr => exact Working.inv (hu.working (not_not.1 hr)) rfl
  | readState => exact complete h <| (betweenCommands hs).bind fun _ u ⟨hu, _⟩ => hu.reply _
  | cmdReserved => exact complete h <| (betweenCommands hs).bind fun _ u ⟨hu, _⟩ => hu.reply _
  | hdrNoE8 => exact complete h <| (atPhase hs (by decide)).bind fun _ _ hu => Working.inv hu trivial
  | hdrE8 =>
    exact complete h <| (atPhase hs (by decide)).bind fun _ _ hu => (cursor (readBits_keeps _) hu).bind fun _ _ hu =>
      (cursor (readBits_keeps _) hu).bind fun _ _ hu => Working.inv hu trivial
  | blkVerbatim =>
    exact complete h <| (blockHeader hs 1).bind fun _ _ ⟨hu, ht⟩ => Working.goto ⟨hu, .inr (.inl ht)⟩ trivial
  | blkAligned =>
    exact complete h <| (blockHeader hs 2).bind fun _ _ ⟨hu, ht⟩ =>
      Working.goto ⟨hu, .inr (.inr (.inl ht))⟩ trivial
  | blkUncompressed =>
    refine complete h <| (blockHeader hs 3).bind fun _ u ⟨hu, ht⟩ => ?_
    have hw : Working u.startE8 := ⟨hu, .inr (.inr (.inr ht))⟩
    exact (cursor (s := u.startE8) alignToRaw_keeps hw).bind fun _ _ hv => hv.goto trivial
  | blkInvalid0 => exact complete h <| (blockHeader hs 0).bind fun _ _ ⟨hu, _⟩ => hu.1
  | blkInvalid4to7 => exact complete h <| (blockHeader hs _).bind fun _ _ ⟨hu, _⟩ => hu.1
  | alnLens =>
    exact complete h <| (atPhase hs (by decide)).bind fun _ _ hu => (readAlignedLens hu (by omega)).bind fun _ _ hu =>
      build_set hu.stored hu.stored.lengths.2.2.1 fun _ ht => (hu.setAlignedTable ht).goto trivial
  | preLens =>
    exact complete h <| (atPreLens hs).bind fun _ _ hu => (readPreLens hu (by omega)).bind fun _ _ hu =>
      build_set hu.stored hu.stored.lengths.2.2.2 fun _ ht => (hu.setPreTable ht).goto trivial
  | preDelta =>
    exact complete h <| (inRecord hs).bind fun _ _ hu => hu.writeLens (by decide) (deltaLen_le _ _)
  | preZrun4 =>
    refine complete h <| (inRecord hs).bind fun _ _ hu => (cursorInRecord (readBits_keeps _) hu).bind fun y _ hu => ?_
    exact hu.writeLens (by unfold zrun4Count; omega) (by decide)
  | preZrun20 =>
    refine complete h <| (inRecord hs).bind fun _ _ hu => (cursorInRecord (readBits_keeps _) hu).bind fun y _ hu => ?_
    exact hu.writeLens (by unfold zrun20Count; omega) (by decide)
  | preSame =>
    refine complete h <| (inRecord hs).bind fun _ _ hu => (cursorInRecord (readBits_keeps _) hu).bind fun y _ hu =>
      get_bind <| (cursorInRecord (decodeSym_keeps _) hu).bind fun z _ hu => ?_
    split
    · exact hu.1.stored
    · exact hu.writeLens (by unfold sameCount; omega) (deltaLen_le _ _)
  | mainLit b =>
    refine complete h <| (inRun hs _).bind fun _ _ ⟨hu, hr, _⟩ =>
      (winWrite hu hr b).bind fun _ _ ⟨hv, hrv⟩ => ?_
    exact hv.spendRun (by omega)
  | mainMatchR0 => exact complete h <| matchElement hs _ codedBlock_types fun _ _ hu => matchR0 hu _
  | mainMatchR1 => exact complete h <| matchElement hs _ codedBlock_types fun _ _ hu => matchR1 hu _
  | mainMatchR2 => exact complete h <| matchElement hs _ codedBlock_types fun _ _ hu => matchR2 hu _
  | mainMatchOne => exact complete h <| matchElement hs _ codedBlock_types fun _ _ hu => matchNew hu _ _
  | mainMatchVerb =>
    exact complete h <| matchElement hs _ (fun _ ht => .inl (of_decide_eq_true ht)) fun _ _ hu => matchVerb hu _ _
  | mainMatchAlgn =>
    exact complete h <| matchElement hs _ (fun _ ht => .inr (of_decide_eq_true ht)) fun _ _ hu => matchAlgn hu _ _
  | lenFooter =>
    refine complete h <| get_bind ?_
    split
    · next hp => exact offsetStep (hs.inRun hp (by simp) (hs.phaseOk hp).1) _ _
    · exact hs.stored
  | alnSym =>
    refine complete h <| get_bind ?_
    split
    · next hp => exact matchNew (hs.inRun hp (by simp) (hs.phaseOk hp)) _ _
    · exact hs.stored
  | uncPad =>
    exact complete h <| (atPhase hs (by decide)).bind fun _ _ hu => (cursor readRawByte_keeps hu).bind fun _ _ hu =>
      (cursor initBits_keeps hu).bind fun _ _ hu => hu.goto trivial
  | uncHdr =>
    refine complete h <| (atPhase hs (by decide)).bind fun _ _ hu => (cursor readRaw32_keeps hu).bind fun a u hu => ?_
    have hu : Working { u with dec := { u.dec with r0 := a } } := hu
    refine modify_bind <| (cursor readRaw32_keeps hu).bind fun b u hu => ?_
    have hu : Working { u with dec := { u.dec with r1 := b } } := hu
    refine modify_bind <| (cursor readRaw32_keeps hu).bind fun c u hu => ?_
    exact Working.inv hu trivial
  | uncByte =>
    refine complete h <| (inRun hs _).bind fun _ _ ⟨hu, hr, _⟩ =>
      (onlyCur (P := fun v => InRun 0 v ∧ 0 < v.run) readRawByte_keeps (fun _ _ h => h) (fun _ h => h.1.stored)
        ⟨hu, hr⟩).bind fun b _ ⟨hv, hrv⟩ => (winWrite hv hrv b).bind fun _ _ ⟨hw, hrw⟩ => ?_
    exact hw.spendRun (by omega)
  | frmStd =>
    exact complete h <| (atFrameHdr hs).bind fun q _ hu => (frameBytes hu q _).bind fun _ _ hu =>
      startFrameAt hu _ _ _ (frameField_lt _ _)
  | frmExplicit =>
    exact complete h <| (atFrameHdr hs).bind fun q _ hu => (frameBytes hu q _).bind fun _ _ hu =>
      startFrameAt hu _ _ _ (frameField_lt _ _)

end Ends

/-! ### The fetch -/

/-- What a fetch comes to meets the invariant: the state past the opcode word, or the next state. -/
def Fetched.KeepsInv : Fetched → Prop
  | .run i t => t.Inv ∧ ChunkBounded i
  | .done o => ∀ t, o = .next t → t.Inv

namespace Ends

variable {s : State}

theorem decoded {w : OpWord} (h : s.Inv) : (decoded w s).KeepsInv := by
  unfold Machine.decoded
  cases hd : decode w with
  | ok i => exact ⟨h, chunkBounded_of_decode hd⟩
  | error e => exact fun _ hn => nomatch hn

/-- An opcode word is read by moving the cursor alone. -/
theorem readOpcode {m : M OpWord} (hm : Keeps OnlyCur m) (h : s.Inv) : (readOpcode m s).KeepsInv := by
  have hs := h.of_onlyCur (hm s)
  unfold Machine.readOpcode
  cases hr : m.run s with
  | ok w u => rw [hr] at hs; exact decoded hs
  | error e u => rw [hr] at hs; exact fun t ht => complete ht hs.stored

theorem fetchCommand (h : s.Inv) : (fetchCommand s).KeepsInv := by
  unfold Machine.fetchCommand
  cases s.pending with
  | nil => rintro t ⟨⟩; exact h
  | cons c rest => exact decoded (s := s.takeCommand c rest) h

theorem fetchRecord {r : Record} {x : Nat} (h : s.Inv) (hp : s.phase = .record r x) : (fetchRecord r x s).KeepsInv := by
  unfold Machine.fetchRecord
  split
  · exact readOpcode (symbolWord_keeps _ _) h
  · exact fun t ht => complete ht (endRecord (h.busy hp (by simp)) r)

theorem fetchRun (h : s.Inv) (hp : s.phase = .runLoop) : (fetchRun s).KeepsInv := by
  unfold Machine.fetchRun
  split
  · rintro t ⟨⟩; exact (h.busy hp (by decide)).goto trivial
  · split
    · exact readOpcode (symbolWord_keeps _ _) h
    · exact decoded h

theorem fetchFrame (h : s.Inv) : (fetchFrame s).KeepsInv := by
  unfold Machine.fetchFrame
  cases s.seq with
  | none => exact fun _ hn => nomatch hn
  | some q =>
    dsimp only
    cases q.payload[q.pos]? with
    | none => exact fun t ht => complete ht h.stored
    | some h0 => exact decoded h

theorem fetch (h : s.Inv) : (fetch s).KeepsInv := by
  unfold Machine.fetch
  cases hp : s.phase with
  | idle => exact fetchCommand h
  | seqLoop => exact fun t ht => complete ht (seqLoop (h.busy hp (by decide)))
  | frameHdr => exact fetchFrame h
  | seqFinish => exact fun t ht => complete ht (seqFinish (h.busy hp (by decide)))
  | streamHdr => exact readOpcode (fieldWord_keeps _) h
  | mainLoop => exact fun t ht => complete ht (mainLoop (h.busy hp (by decide)))
  | uncPad => exact decoded h
  | blockHdr => exact readOpcode (fieldWord_keeps _) h
  | alnLens => exact decoded h
  | preLens => exact decoded h
  | record r x => exact fetchRecord h hp
  | uncHdr => exact decoded h
  | runLoop => exact fetchRun h hp
  | footer => exact readOpcode (symbolWord_keeps _ _) h
  | alignedSym => exact readOpcode (symbolWord_keeps _ _) h
  | frameOutput => exact fun t ht => complete ht (frameOutput (h.busy hp (by decide)))
  | e8Pass => exact fun t ht => complete ht (e8Pass (h.busy hp (by decide)))
  | deliver => exact fun t ht => complete ht (deliver (h.busy hp (by decide)))

theorem step {t : State} (hs : s.Inv) (h : step s = .next t) : t.Inv := by
  have hf := fetch hs
  unfold Machine.step at h
  cases hfs : Machine.fetch s with
  | run i u =>
    rw [hfs] at hf h
    exact exec hf.1 hf.2 h
  | done o => rw [hfs] at hf h; exact hf t h

end Ends

/-- Settles O55: what a fetch comes to meets the invariant, and every instruction and rule between elements ends in
it. -/
theorem everyStepKeepsInvariant : Obligations.EveryStepKeepsInvariant :=
  fun _ _ => Ends.step

end Sys2Proof.Machine
end

section
/-! SUPPORT. Decoding and encoding agree (spec/30_encoding.md R70 to R91): the fields of a command word and of a main
symbol, and for each format of opcode word what its decoding encodes to. -/

namespace Sys2Proof

/-! ### The command word (R70) -/

@[simp] theorem cmdOp_cmdWord (op : BitVec 4) (arg : BitVec 8) : cmdOp (cmdWord op arg) = op :=
  BitVec.extractLsb'_append_eq_right

@[simp] theorem cmdArg_cmdWord (op : BitVec 4) (arg : BitVec 8) : cmdArg (cmdWord op arg) = arg :=
  calc cmdArg (cmdWord op arg)
    _ = (0#16 ++ arg ++ 0#4).extractLsb' 4 8 := BitVec.extractLsb'_append_eq_of_le (by decide)
    _ = (0#16 ++ arg).extractLsb' 0 8 := BitVec.extractLsb'_append_eq_of_le (by decide)
    _ = arg := BitVec.extractLsb'_append_eq_right

@[simp] theorem cmdReservedLow_cmdWord (op : BitVec 4) (arg : BitVec 8) : cmdReservedLow (cmdWord op arg) = 0 :=
  calc cmdReservedLow (cmdWord op arg)
    _ = (0#16 ++ arg ++ 0#4).extractLsb' 0 4 := BitVec.extractLsb'_append_eq_of_le (by decide)
    _ = 0 := BitVec.extractLsb'_append_eq_right

@[simp] theorem cmdReservedHigh_cmdWord (op : BitVec 4) (arg : BitVec 8) : cmdReservedHigh (cmdWord op arg) = 0 :=
  calc cmdReservedHigh (cmdWord op arg)
    _ = (0#16 ++ arg ++ 0#4).extractLsb' 12 16 := BitVec.extractLsb'_append_eq_of_le (by decide)
    _ = (0#16 ++ arg).extractLsb' 8 16 := BitVec.extractLsb'_append_eq_of_le (by decide)
    _ = 0 := BitVec.extractLsb'_append_eq_left

/-- A command word is its four fields. -/
theorem append_cmdFields (w : Word) : cmdReservedHigh w ++ cmdArg w ++ cmdReservedLow w ++ cmdOp w = w := by
  unfold cmdReservedHigh cmdArg cmdReservedLow cmdOp
  rw [BitVec.extractLsb'_append_extractLsb'_eq_extractLsb' (by decide),
    BitVec.extractLsb'_append_extractLsb'_eq_extractLsb' (by decide),
    BitVec.extractLsb'_append_extractLsb'_eq_extractLsb' (by decide)]
  exact BitVec.extractLsb'_eq_self

theorem cmdKind_cmdWord (op : BitVec 4) (arg : BitVec 8) :
    cmdKind (cmdWord op arg) =
      if op = 1 then .init
      else if op = 2 then (if arg = 0 then .decompress else .reserved)
      else if op = 3 then (if arg = 0 then .seqRun else .reserved)
      else if op = 4 then .readState
      else .reserved := by
  unfold cmdKind
  simp

theorem cmdKind_init (arg : BitVec 8) : cmdKind (cmdWord 1 arg) = .init := cmdKind_cmdWord 1 arg
theorem cmdKind_decompress : cmdKind (cmdWord 2 0) = .decompress := cmdKind_cmdWord 2 0
theorem cmdKind_seqRun : cmdKind (cmdWord 3 0) = .seqRun := cmdKind_cmdWord 3 0
theorem cmdKind_readState (arg : BitVec 8) : cmdKind (cmdWord 4 arg) = .readState := cmdKind_cmdWord 4 arg

/-- A word with a reserved bit set is refused; any other is made of its `op` and its `arg`. -/
theorem eq_cmdWord_or_reserved (w : Word) : w = cmdWord (cmdOp w) (cmdArg w) ∨ cmdKind w = .reserved := by
  by_cases h : cmdReservedLow w ≠ 0 ∨ cmdReservedHigh w ≠ 0
  · exact .inr (if_pos h)
  · obtain ⟨hlow, hhigh⟩ := not_or.1 h
    have hw := append_cmdFields w
    rw [not_not.1 hlow, not_not.1 hhigh] at hw
    exact .inl hw.symm

/-- A command word is the one of its command, or it is refused (R70, R156). -/
theorem command_cases (w : Word) :
    (∃ arg, w = cmdWord 1 arg) ∨ w = cmdWord 2 0 ∨ w = cmdWord 3 0 ∨ (∃ arg, w = cmdWord 4 arg) ∨
      cmdKind w = .reserved := by
  obtain hw | hr := eq_cmdWord_or_reserved w
  · have hk := cmdKind_cmdWord (cmdOp w) (cmdArg w)
    rw [← hw] at hk
    split_ifs at hk with h1 h2 ha h3 ha h4
    · exact .inl ⟨_, h1 ▸ hw⟩
    · exact .inr (.inl (by rwa [h2, ha] at hw))
    · exact .inr (.inr (.inr (.inr hk)))
    · exact .inr (.inr (.inl (by rwa [h3, ha] at hw)))
    · exact .inr (.inr (.inr (.inr hk)))
    · exact .inr (.inr (.inr (.inl ⟨_, h4 ▸ hw⟩)))
    · exact .inr (.inr (.inr (.inr hk)))
  · exact .inr (.inr (.inr (.inr hr)))

/-! ### The main symbol (R83) -/

@[simp] theorem matchField_matchSymbol (slot : BitVec 6) (lh : BitVec 3) :
    matchField (matchSymbol slot lh) = slot ++ lh := by
  unfold matchField matchSymbol
  bv_omega

@[simp] theorem matchLh_matchSymbol (slot : BitVec 6) (lh : BitVec 3) : matchLh (matchSymbol slot lh) = lh := by
  unfold matchLh
  rw [matchField_matchSymbol]
  exact BitVec.extractLsb'_append_eq_right

@[simp] theorem matchSlot_matchSymbol (slot : BitVec 6) (lh : BitVec 3) : matchSlot (matchSymbol slot lh) = slot := by
  unfold matchSlot
  rw [matchField_matchSymbol]
  exact BitVec.extractLsb'_append_eq_left

theorem matchSymbol_toNat (slot : BitVec 6) (lh : BitVec 3) :
    (matchSymbol slot lh).toNat = 256 + 8 * slot.toNat + lh.toNat := by
  have hf : (slot ++ lh).toNat = 8 * slot.toNat + lh.toNat := by
    rw [BitVec.toNat_append, ← Nat.shiftLeft_add_eq_or_of_lt lh.isLt, Nat.shiftLeft_eq, Nat.mul_comm]
  unfold matchSymbol
  bv_omega

/-- A match symbol is the one of its slot and length header. -/
theorem matchSymbol_fields {s : BitVec 10} (hlo : 256 ≤ s.toNat) (hhi : s.toNat ≤ 655) :
    matchSymbol (matchSlot s) (matchLh s) = s := by
  have hf : matchSlot s ++ matchLh s = matchField s := by
    unfold matchSlot matchLh
    rw [BitVec.extractLsb'_append_extractLsb'_eq_extractLsb' (by decide)]
    exact BitVec.extractLsb'_eq_self
  unfold matchSymbol
  rw [hf, matchField]
  bv_omega

theorem matchSlot_le {s : BitVec 10} (hlo : 256 ≤ s.toNat) (hhi : s.toNat ≤ 655) : (matchSlot s).toNat ≤ 49 := by
  have := matchSymbol_toNat (matchSlot s) (matchLh s)
  rw [matchSymbol_fields hlo hhi] at this
  omega

/-! ### The transaction of a command (R71) -/

theorem length_toNat_of_bytesFit {bs : List Byte} (h : bytesFit bs = true) :
    (BitVec.ofNat 32 bs.length).toNat = bs.length := by
  rw [BitVec.toNat_ofNat, Nat.mod_eq_of_lt (of_decide_eq_true h)]

theorem countedBytes_exact {c : HostCommand} {len n : Word} (ho : c.operands = [len, n])
    (hb : c.bytes.length = len.toNat) (draw : Nat) : countedBytes c draw = c.bytes :=
  Machine.commandBytes_exact (by simpa [operandWord, ho] using hb)

theorem bytesFit_countedBytes (c : HostCommand) (draw : Nat) : bytesFit (countedBytes c draw) = true := by
  unfold countedBytes
  rw [bytesFit, Machine.commandBytes_length]
  exact decide_eq_true (operandWord c draw 0).isLt

/-- A command without operand words and bytes is its command word. -/
theorem eq_of_bare {c : HostCommand} (h : bare c = true) :
    ({ word := c.word, operands := [], bytes := [] } : HostCommand) = c := by
  obtain ⟨w, ops, bs⟩ := c
  simp_all [bare]

/-- A counted transaction is made of the operand word and the bytes read of it. -/
theorem eq_of_counted {c : HostCommand} (h : counted c = true) (draw : Nat) :
    ({ word := c.word
       operands := [BitVec.ofNat 32 (countedBytes c draw).length, operandWord c draw 1]
       bytes := countedBytes c draw } : HostCommand) = c := by
  unfold counted at h
  split at h
  · rename_i len n ho
    have hb := of_decide_eq_true h
    obtain ⟨w, ops, bs⟩ := c
    rw [countedBytes_exact ho hb]
    simp_all [operandWord]
  · cases h

/-- What a command decodes to is well-formed. -/
theorem wellFormed_decodeCommand (c : HostCommand) (draw : Nat) : (decodeCommand c draw).wellFormed = true := by
  unfold decodeCommand
  cases hk : cmdKind c.word with
  | init | readState => rfl
  | decompress | seqRun => exact bytesFit_countedBytes c draw
  | reserved => exact decide_eq_true hk

/-- What a command decodes to is encoded with its command word, and a transaction of R71 as it stands. -/
theorem encode_decodeCommand (c : HostCommand) (draw : Nat) :
    ∃ c', encode (decodeCommand c draw) = .cmd c' 0 ∧ c'.word = c.word ∧ (c.wellFormed = true → c' = c) := by
  unfold decodeCommand HostCommand.wellFormed
  obtain ⟨arg, hw⟩ | hw | hw | ⟨arg, hw⟩ | hr := command_cases c.word
  · rw [hw, cmdKind_init, cmdArg_cmdWord]
    exact ⟨_, rfl, rfl, fun h => hw ▸ eq_of_bare h⟩
  · rw [hw, cmdKind_decompress]
    exact ⟨_, rfl, rfl, fun h => hw ▸ eq_of_counted h draw⟩
  · rw [hw, cmdKind_seqRun]
    exact ⟨_, rfl, rfl, fun h => hw ▸ eq_of_counted h draw⟩
  · rw [hw, cmdKind_readState, cmdArg_cmdWord]
    exact ⟨_, rfl, rfl, fun h => hw ▸ eq_of_bare h⟩
  · rw [hr]
    exact ⟨_, rfl, rfl, eq_of_bare⟩

/-! ### Headers, pre-tree, length and frame words -/

theorem wellFormed_encode_decodeHdr (f : BitVec 1) :
    (decodeHdr f).wellFormed = true ∧ encode (decodeHdr f) = .hdr f := by
  revert f; decide

theorem wellFormed_encode_decodeBlk (t : BitVec 3) :
    (decodeBlk t).wellFormed = true ∧ encode (decodeBlk t) = .blk t := by
  revert t; decide

theorem wellFormed_encode_of_decodePre {z : BitVec 5} {i : Instr} (h : decodePre z = .ok i) :
    i.wellFormed = true ∧ encode i = .pre z := by
  unfold decodePre at h
  split_ifs at h with h16 h17 h18 h19 <;> cases h
  · exact ⟨decide_eq_true h16, rfl⟩
  · exact ⟨rfl, h17 ▸ rfl⟩
  · exact ⟨rfl, h18 ▸ rfl⟩
  · exact ⟨rfl, h19 ▸ rfl⟩

theorem wellFormed_encode_of_decodeLen {f : BitVec 8} {i : Instr} (h : decodeLen f = .ok i) :
    i.wellFormed = true ∧ encode i = .len f := by
  unfold decodeLen at h
  split_ifs at h with hf
  cases h
  exact ⟨decide_eq_true hf, rfl⟩

theorem wellFormed_encode_decodeFrm (h0 : Byte) :
    (decodeFrm h0).wellFormed = true ∧ encode (decodeFrm h0) = .frm h0 := by
  unfold decodeFrm
  split
  · next h => exact ⟨rfl, h ▸ rfl⟩
  · next h => exact ⟨bne_iff_ne.2 h, rfl⟩

/-! ### The main word -/

theorem decodeMatch_verb {slot : BitVec 6} (h : slotWithBits slot = true) (lh : BitVec 3) :
    decodeMatch 1 slot lh = .mainMatchVerb slot lh := by
  revert slot lh; decide

theorem decodeMatch_algn {slot : BitVec 6} (h : slotWithBits slot = true) (lh : BitVec 3) :
    decodeMatch 2 slot lh = .mainMatchAlgn slot lh := by
  revert slot lh; decide

/-- A match form is encoded in its own block type or, where that does not matter, in a VERBATIM block. -/
theorem wellFormed_encode_decodeMatch (bt : BitVec 3) {slot : BitVec 6} (hbt : bt = 1 ∨ bt = 2) (hs : slot.toNat ≤ 49)
    (lh : BitVec 3) :
    (decodeMatch bt slot lh).wellFormed = true ∧
      (encode (decodeMatch bt slot lh) = .main bt (matchSymbol slot lh) ∨
        encode (decodeMatch bt slot lh) = .main 1 (matchSymbol slot lh)) := by
  have hbits (h0 : slot ≠ 0) (h1 : slot ≠ 1) (h2 : slot ≠ 2) (h3 : slot ≠ 3) : slotWithBits slot = true := by
    simp only [slotWithBits, Bool.and_eq_true, decide_eq_true_eq]
    bv_omega
  unfold decodeMatch
  split_ifs with h0 h1 h2 h3 hv
  · exact ⟨rfl, .inr (h0 ▸ rfl)⟩
  · exact ⟨rfl, .inr (h1 ▸ rfl)⟩
  · exact ⟨rfl, .inr (h2 ▸ rfl)⟩
  · exact ⟨rfl, .inr (h3 ▸ rfl)⟩
  · exact ⟨hbits h0 h1 h2 h3, .inr rfl⟩
  · exact ⟨hbits h0 h1 h2 h3, .inl ((hbt.resolve_left hv) ▸ rfl)⟩

theorem wellFormed_encode_of_decodeMain {bt : BitVec 3} {s : BitVec 10} {i : Instr} (h : decodeMain bt s = .ok i) :
    i.wellFormed = true ∧ (encode i = .main bt s ∨ encode i = .main 1 s) := by
  unfold decodeMain at h
  split_ifs at h with hbt hlit hhi <;> cases h
  · refine ⟨rfl, .inr (congrArg (OpWord.main 1) ?_)⟩
    bv_omega
  · have hm := wellFormed_encode_decodeMatch bt (by tauto) (matchSlot_le (not_lt.1 hlit) hhi) (matchLh s)
    rwa [matchSymbol_fields (not_lt.1 hlit) hhi] at hm

theorem decodeMain_literal (b : Byte) : decodeMain 1 (b.setWidth 10) = .ok (.mainLit b) := by
  have hb : (b.setWidth 10).toNat < 256 := by bv_omega
  unfold decodeMain
  rw [if_neg (by decide), if_pos hb]
  congr 2
  bv_omega

theorem decodeMain_matchSymbol {bt : BitVec 3} {slot : BitVec 6} (hbt : bt = 1 ∨ bt = 2) (hs : slot.toNat ≤ 49)
    (lh : BitVec 3) : decodeMain bt (matchSymbol slot lh) = .ok (decodeMatch bt slot lh) := by
  have hm := matchSymbol_toNat slot lh
  unfold decodeMain
  rw [if_neg (by tauto), if_neg (by omega), if_pos (by omega), matchSlot_matchSymbol, matchLh_matchSymbol]

/-! ### Both ways -/

/-- A well-formed instruction is what its opcode word decodes to. -/
theorem decode_encode {i : Instr} (h : i.wellFormed = true) : decode (encode i) = .ok i := by
  cases i with
  | init wb => simp only [encode, decode, decodeCommand, cmdKind_init, cmdArg_cmdWord]
  | readState id => simp only [encode, decode, decodeCommand, cmdKind_readState, cmdArg_cmdWord]
  | decompress n bs =>
    simp only [encode, decode, decodeCommand, cmdKind_decompress]
    rw [countedBytes_exact rfl (length_toNat_of_bytesFit h).symm]
    rfl
  | seqRun n bs =>
    simp only [encode, decode, decodeCommand, cmdKind_seqRun]
    rw [countedBytes_exact rfl (length_toNat_of_bytesFit h).symm]
    rfl
  | cmdReserved w => simp only [encode, decode, decodeCommand, of_decide_eq_true h]
  | blkInvalid4to7 t => revert t; decide
  | preDelta z => exact if_pos (of_decide_eq_true h)
  | mainLit b => exact decodeMain_literal b
  | mainMatchR0 lh | mainMatchR1 lh | mainMatchR2 lh | mainMatchOne lh =>
    exact decodeMain_matchSymbol (.inl rfl) (by decide) lh
  | mainMatchVerb slot lh =>
    have hs := of_decide_eq_true (Bool.and_eq_true_iff.1 h).2
    exact (decodeMain_matchSymbol (.inl rfl) hs lh).trans (congrArg _ (decodeMatch_verb h lh))
  | mainMatchAlgn slot lh =>
    have hs := of_decide_eq_true (Bool.and_eq_true_iff.1 h).2
    exact (decodeMain_matchSymbol (.inr rfl) hs lh).trans (congrArg _ (decodeMatch_algn h lh))
  | lenFooter f => exact if_pos (of_decide_eq_true h)
  | frmStd h0 => exact congrArg _ (if_neg (bne_iff_ne.1 h))
  | _ => rfl

/-- An opcode word that decodes is what it decodes to, encoded: itself, or up to the block type of a main symbol, or up
to the free values and the surplus of a command (log 13). -/
theorem wellFormed_encode_of_decode {w : OpWord} {i : Instr} (h : decode w = .ok i) :
    i.wellFormed = true ∧
      (encode i = w ∨ (∃ bt sym, w = .main bt sym ∧ encode i = .main 1 sym) ∨
        ∃ c draw c', w = .cmd c draw ∧ encode i = .cmd c' 0 ∧ c'.word = c.word ∧ (c.wellFormed = true → c' = c)) := by
  cases w with
  | cmd c draw =>
    cases h
    obtain ⟨c', he⟩ := encode_decodeCommand c draw
    exact ⟨wellFormed_decodeCommand c draw, .inr (.inr ⟨c, draw, c', rfl, he⟩)⟩
  | main bt s =>
    exact (wellFormed_encode_of_decodeMain h).imp_right (.imp_right fun he => .inl ⟨bt, s, rfl, he⟩)
  | hdr f => cases h; exact (wellFormed_encode_decodeHdr f).imp_right .inl
  | blk t => cases h; exact (wellFormed_encode_decodeBlk t).imp_right .inl
  | pre z => exact (wellFormed_encode_of_decodePre h).imp_right .inl
  | len f => exact (wellFormed_encode_of_decodeLen h).imp_right .inl
  | frm h0 => cases h; exact (wellFormed_encode_decodeFrm h0).imp_right .inl
  | _ => cases h; exact ⟨rfl, .inl rfl⟩

/-- Settles O51: format by format, in both directions. -/
theorem decodeEncodeAgree : Obligations.DecodeEncodeAgree :=
  ⟨fun _ => decode_encode, fun _ _ => wellFormed_encode_of_decode⟩

/-- Settles O52: the decoder evaluated at each word. -/
theorem specWordsDecode : Obligations.SpecWordsDecode := by
  unfold Obligations.SpecWordsDecode
  decide

end Sys2Proof
end

section
/-! SUPPORT. The position slots (spec/30_encoding.md R86, R87): the slots' base positions rise, and the last is 2^21, so
the slots part the positions from 4 on. -/

namespace Sys2Proof.Machine

theorem positionBase_mono : Monotone positionBase :=
  monotone_nat_of_le_succ fun _ => Nat.le_add_right _ _

theorem positionBase_four : positionBase 4 = 4 := by decide

theorem positionBase_fifty : positionBase 50 = 2097152 := by decide

theorem four_le_positionBase {slot : Nat} (h : 4 ≤ slot) : 4 ≤ positionBase slot :=
  positionBase_four.ge.trans (positionBase_mono h)

theorem positionBase_succ_le {slot : Nat} (h : slot ≤ 49) : positionBase (slot + 1) ≤ 2097152 :=
  (positionBase_mono (Nat.succ_le_succ h)).trans positionBase_fifty.le

/-- The slot of a position, the largest whose base is not past it. -/
theorem exists_slot {n p : Nat} (hlo : 4 ≤ p) (hhi : p < positionBase n) :
    ∃ slot, 4 ≤ slot ∧ slot < n ∧ positionBase slot ≤ p ∧ p < positionBase (slot + 1) := by
  induction n with
  | zero => exact absurd hhi (Nat.not_lt_zero p)
  | succ n ih =>
    by_cases hn : p < positionBase n
    · obtain ⟨slot, h4, hlt, hp⟩ := ih hn
      exact ⟨slot, h4, Nat.lt_succ_of_lt hlt, hp⟩
    · refine ⟨n, ?_, n.lt_succ_self, not_lt.1 hn, hhi⟩
      by_contra h4
      have := positionBase_mono (show n + 1 ≤ 4 by omega)
      rw [positionBase_four] at this
      omega

/-- A position is in one slot. -/
theorem slot_unique {a b p : Nat} (ha : positionBase a ≤ p) (ha' : p < positionBase (a + 1)) (hb : positionBase b ≤ p)
    (hb' : p < positionBase (b + 1)) : a = b :=
  le_antisymm (Nat.lt_succ_iff.1 (positionBase_mono.reflect_lt (ha.trans_lt hb')))
    (Nat.lt_succ_iff.1 (positionBase_mono.reflect_lt (hb.trans_lt ha')))

theorem three_le_extraBits_iff {slot : Nat} : 3 ≤ extraBits slot ↔ 8 ≤ slot := by
  unfold extraBits
  split_ifs <;> omega

/-- Slots of 3 extra bits or more lie at multiples of 8. -/
theorem eight_dvd_positionBase {slot : Nat} (h : 8 ≤ slot) : 8 ∣ positionBase slot := by
  induction slot, h using Nat.le_induction with
  | base => decide
  | succ slot h ih => exact dvd_add ih (pow_dvd_pow 2 (three_le_extraBits_iff.2 h))

theorem verbOffset_add_two {slot : Nat} (h : 4 ≤ slot) (v : Nat) : verbOffset slot v + 2 = positionBase slot + v := by
  have := four_le_positionBase h
  unfold verbOffset
  omega

/-- The position of an offset, 2 more than it (R85), lies in the offset's slot. -/
theorem verbOffset_in_slot {slot v : Nat} (h : 4 ≤ slot) (hv : v < 2 ^ extraBits slot) :
    positionBase slot ≤ verbOffset slot v + 2 ∧ verbOffset slot v + 2 < positionBase (slot + 1) := by
  rw [verbOffset_add_two h]
  exact ⟨Nat.le_add_right _ _, Nat.add_lt_add_left hv _⟩

/-- Settles O50: the offsets of slots 4 to 49 are the positions from 4 to 2097151, less 2, and the slots part these. -/
theorem offsetFormsCoverTheRange : Obligations.OffsetFormsCoverTheRange := by
  refine ⟨⟨fun slot h => if_pos h, fun slot h4 h36 => ?_, fun slot h36 _ => ?_⟩, ⟨rfl, fun _ => rfl⟩,
    fun slot v h4 h49 hv => ?_, fun offset h2 hmax => ?_, fun slot v a h4 _ heb ha => ?_⟩
  · rw [extraBits, if_neg (by omega), if_pos h36]
  · rw [extraBits, if_neg (by omega), if_neg (by omega)]
  · obtain ⟨hlo, hhi⟩ := verbOffset_in_slot h4 hv
    have hbase := four_le_positionBase h4
    have hlast := positionBase_succ_le h49
    omega
  · obtain ⟨slot, h4, h50, hlo, hhi⟩ := exists_slot (n := 50) (p := offset + 2) (by omega)
      (by rw [positionBase_fifty]; omega)
    obtain ⟨v, hv⟩ := Nat.exists_eq_add_of_le hlo
    have hoff := verbOffset_add_two h4 v
    have hnext : positionBase (slot + 1) = positionBase slot + 2 ^ extraBits slot := rfl
    refine ⟨slot, v, h4, by omega, by omega, by omega, fun slot' v' h4' _ hv' he => ?_⟩
    obtain ⟨hlo', hhi'⟩ := verbOffset_in_slot h4' hv'
    rw [he] at hlo' hhi'
    obtain rfl := slot_unique hlo' hhi' hlo hhi
    have hoff' := verbOffset_add_two h4 v'
    exact ⟨rfl, by omega⟩
  · have hbase := four_le_positionBase h4
    have hdvd := eight_dvd_positionBase (three_le_extraBits_iff.1 heb)
    unfold alignedBase
    omega

end Sys2Proof.Machine
end

section
/-! SUPPORT. What a step does with the next opcode word (spec/30_encoding.md R73, R92): it runs the instruction the word
decodes to, or takes the error of reading it. -/

namespace Sys2Proof.Machine

section step

variable {s t : State} {i : Instr}

/-! ### From the fetch to the step -/

theorem step_of_decoded {w : OpWord} (hf : fetch s = decoded w t) (hd : decode w = .ok i) : step s = exec i t := by
  unfold step
  rw [hf, decoded, hd]

/-- An opcode word that is read and decodes is run from the state past it. -/
theorem step_of_readOpcode {m : M OpWord} {w : OpWord} (hf : fetch s = readOpcode m s) (hm : m.run s = .ok w t)
    (hd : decode w = .ok i) : step s = exec i t := by
  refine step_of_decoded (hf.trans ?_) hd
  unfold readOpcode
  rw [hm]

/-- An error in reading an opcode word is taken, and nothing is consumed where the read leaves the state. -/
theorem takesError_of_readOpcode {m : M OpWord} {e : Err} {p : Option Nat} (hf : fetch s = readOpcode m s)
    (hm : m.run s = .error (.raise e p) s) : TakesError (step s) s e (p.getD s.cur.position) := by
  unfold step
  rw [hf, readOpcode, hm]
  rfl

/-! ### A decoded symbol as an opcode word -/

section symbol

variable {n : Nat} {mk : BitVec n → OpWord} {table : DecodeTable}

theorem step_of_symbol {z : Nat} (hf : fetch s = readOpcode (do let z ← decodeSym table; symbolWord mk z) s)
    (hz : (decodeSym table).run s = .ok z t) (hn : z < 2 ^ n) (hd : decode (mk (BitVec.ofNat n z)) = .ok i) :
    step s = exec i t :=
  step_of_readOpcode hf (by rw [M.bind_ok hz, symbolWord, if_pos hn, EStateM.run_pure]) hd

/-- A symbol of an EMPTY table (spec/41_huffman.md R127) or one without its bits (R126) is an error of the step. -/
theorem stepNeedsSymbol (hf : fetch s = readOpcode (do let z ← decodeSym table; symbolWord mk z) s) :
    StepNeedsSymbol s table := by
  refine ⟨fun ht => ?_, fun entries pos ht htr => ?_⟩
  · subst ht
    exact takesError_of_readOpcode hf (M.bind_error (decodeSym_empty s))
  · subst ht
    exact takesError_of_readOpcode hf (M.bind_error (decodeSym_raise htr))

end symbol

/-! ### A field as an opcode word -/

section field

variable {n : Nat} {mk : BitVec n → OpWord}

theorem step_of_field (hf : fetch s = readOpcode (do let f ← readBits n; pure (mk f)) s) (hr : s.canRead n = true)
    (hd : decode (mk (s.field 0 n)) = .ok i) : step s = exec i (s.skip n) :=
  step_of_readOpcode hf (by rw [M.bind_ok (readBits_ok hr), EStateM.run_pure]) hd

/-- A field without its bits (spec/40_bitreader.md R104, R105) is an error of the step. -/
theorem takesError_of_field {pos : Nat} (hf : fetch s = readOpcode (do let f ← readBits n; pure (mk f)) s)
    (h : FieldTruncated s n pos) : TakesError (step s) s .truncatedInput pos :=
  takesError_of_readOpcode hf (M.bind_error (readBits_raise h))

end field

/-! ### What each phase fetches -/

theorem fetch_streamHdr (hp : s.phase = .streamHdr) :
    fetch s = readOpcode (do let f ← readBits 1; pure (.hdr f)) s := by
  rw [fetch, hp]

theorem fetch_blockHdr (hp : s.phase = .blockHdr) :
    fetch s = readOpcode (do let t ← readBits 3; pure (.blk t)) s := by
  rw [fetch, hp]

theorem fetch_record {r : Record} {x : Nat} (hp : s.phase = .record r x) (hx : x < r.last s.dec.wb) :
    fetch s = readOpcode (do let z ← decodeSym s.dec.preTable; symbolWord .pre z) s := by
  rw [fetch, hp]
  exact if_pos hx

theorem fetch_footer {slot : BitVec 6} (hp : s.phase = .footer slot) :
    fetch s = readOpcode (do let f ← decodeSym s.dec.lengthTable; symbolWord .len f) s := by
  rw [fetch, hp]

theorem fetch_alignedSym {length base : Nat} (hp : s.phase = .alignedSym length base) :
    fetch s = readOpcode (do let a ← decodeSym s.dec.alignedTable; symbolWord .aln a) s := by
  rw [fetch, hp]

theorem fetch_main (hp : s.phase = .runLoop) (hr : 0 < s.run) (ht : s.dec.blockType = 1 ∨ s.dec.blockType = 2) :
    fetch s = readOpcode (do let m ← decodeSym s.dec.mainTable; symbolWord (.main s.dec.blockType) m) s := by
  rw [fetch, hp]
  exact (if_neg hr.ne').trans (if_pos ht)

theorem fetch_uncByte (hp : s.phase = .runLoop) (hr : 0 < s.run) (ht : s.dec.blockType = 3) :
    fetch s = decoded .uncByte s := by
  rw [fetch, hp]
  refine (if_neg hr.ne').trans (if_neg ?_)
  rw [ht]
  decide

theorem fetch_frameHdr {q : SeqRegs} {h0 : Byte} (hp : s.phase = .frameHdr) (hs : s.seq = some q)
    (hb : q.payload[q.pos]? = some h0) : fetch s = decoded (.frm h0) s := by
  simp only [fetch, hp, fetchFrame, hs, hb]

/-- A frame header without a byte (spec/45_frame_sequencer.md R236) is an error at the header. -/
theorem step_frameHdr_truncated {q : SeqRegs} (hp : s.phase = .frameHdr) (hs : s.seq = some q)
    (hb : q.payload.length ≤ q.pos) : TakesError (step s) s .truncatedInput (8 * q.pos) := by
  simp only [step, fetch, hp, fetchFrame, hs, List.getElem?_eq_none hb]
  exact complete_raise (M.run_raiseAt _ _ _)

end step

/-- Settles O53: phase by phase, from what the phase fetches. -/
theorem stepRunsDecodedInstruction : Obligations.StepRunsDecodedInstruction := by
  intro s
  refine ⟨step_idle, fun c rest i hp hc hd => ⟨?_, fallsShort_of_wellFormed⟩,
    fun q h0 i hp hs hb => step_of_decoded (fetch_frameHdr hp hs hb),
    fun i hp => step_of_field (fetch_streamHdr hp), fun i hp => step_of_field (fetch_blockHdr hp),
    fun hp => step_of_decoded (by rw [fetch, hp]) rfl, fun r hp => step_of_decoded (by rw [fetch, hp]) rfl,
    fun hp => step_of_decoded (by rw [fetch, hp]) rfl, fun hp => step_of_decoded (by rw [fetch, hp]) rfl,
    fun r x z t i hp hx => step_of_symbol (fetch_record hp hx),
    fun m t i hp hr ht => step_of_symbol (fetch_main hp hr ht),
    fun hp hr ht => step_of_decoded (fetch_uncByte hp hr ht) rfl,
    fun slot f t i hp => step_of_symbol (fetch_footer hp),
    fun length base a t i hp => step_of_symbol (fetch_alignedSym hp),
    fun q => step_frameHdr_truncated, ?_, fun r x hp hx => stepNeedsSymbol (fetch_record hp hx),
    fun hp hr ht => stepNeedsSymbol (fetch_main hp hr ht), fun slot hp => stepNeedsSymbol (fetch_footer hp),
    fun length base hp => stepNeedsSymbol (fetch_alignedSym hp)⟩
  · cases hd
    rw [step_command hp hc, State.takeCommand]
    simp only [Bool.and_eq_true, decide_eq_true_eq]
  · rintro pos (⟨hp, htr⟩ | ⟨hp, htr⟩)
    · exact takesError_of_field (fetch_streamHdr hp) htr
    · exact takesError_of_field (fetch_blockHdr hp) htr

end Sys2Proof.Machine
end

section
/-! SUPPORT. ReadBits whatever the draw of phantom bytes (spec/40_bitreader.md R103 to R105): the three outcomes of a
read, and the bits of the field that it answers. -/

namespace Sys2Proof.Machine

section reads

variable {chunk : List Byte} {draw : Nat → Byte} {segBase b : Nat} {s : State} {n : Nat}

/-! ### The first and the last bits of a field -/

/-- Dropping the last `n` bits of a field leaves its first `m`. -/
theorem segBits_prefix (m n : Nat) :
    segBits chunk draw segBase b (m + n) / 2 ^ n = segBits chunk draw segBase b m := by
  rw [segBits_add, Nat.mul_add_div (by positivity), Nat.div_eq_of_lt (segBits_lt n), Nat.add_zero]

/-- The last `n` bits of a field of `m + n` are those that follow its first `m`. -/
theorem segBits_suffix (m n : Nat) :
    segBits chunk draw segBase b (m + n) % 2 ^ n = segBits chunk draw segBase (b + m) n := by
  rw [segBits_add, Nat.mul_add_mod, Nat.mod_eq_of_lt (segBits_lt n)]

/-- The first bit of a field is its most significant (R100). -/
theorem getMsbD_segBits {k : Nat} (hk : k < n) :
    (BitVec.ofNat n (segBits chunk draw segBase b n)).getMsbD k = segBit chunk draw segBase (b + k) := by
  obtain ⟨j, rfl⟩ : ∃ j, n = k + 1 + j := ⟨n - (k + 1), by omega⟩
  have hlast : segBits chunk draw segBase b (k + 1) % 2 = (segBit chunk draw segBase (b + k)).toNat := by
    have := Bool.toNat_le (segBit chunk draw segBase (b + k))
    rw [segBits]
    omega
  rw [BitVec.getMsbD, decide_eq_true hk, Bool.true_and, show k + 1 + j - 1 - k = j by omega, BitVec.getLsbD_ofNat,
    decide_eq_true (by omega), Bool.true_and, Nat.testBit_eq_decide_div_mod_eq, segBits_prefix, hlast]
  cases segBit chunk draw segBase (b + k) <;> rfl

/-! ### The outcomes of a read -/

/-- Consume of real bits moves the cursor past them (R105). -/
theorem consume_real (h : firstPhantom s.chunk.length s.cur.segBase.toNat s.cur.c.toNat n = none) :
    (consume n).run s = .ok () (s.skip n) := by
  unfold consume
  rw [M.bind_ok (EStateM.run_get s), h]
  rfl

/-- Consume raises at the first phantom bit, and nothing is consumed (R105). -/
theorem consume_phantom (h : firstPhantom s.chunk.length s.cur.segBase.toNat s.cur.c.toNat n = some b) :
    (consume n).run s = .error (.raise .truncatedInput (some (8 * s.cur.segBase.toNat + b))) s := by
  unfold consume
  rw [M.bind_ok (EStateM.run_get s), h]
  rfl

theorem peekBits_ok (h : (fetchBits n).run s = .ok () s) (draw : Nat → Byte) :
    (peekBits draw n).run s = .ok (s.bitsAhead draw n) s := by
  unfold peekBits
  rw [M.bind_ok h, M.bind_ok (EStateM.run_get s), EStateM.run_pure]

theorem peekBits_error {e : Stop} (h : (fetchBits n).run s = .error e s) (draw : Nat → Byte) :
    (peekBits draw n).run s = .error e s := M.bind_error h

/-- ReadBits is PeekBits, then Consume (R103). -/
theorem readBitsWith_eq (draw : Nat → Byte) (n : Nat) :
    readBitsWith draw n = (do let v ← peekBits draw n; consume n; pure (BitVec.ofNat n v)) := by
  simp only [readBitsWith, peekBits, bind_assoc, pure_bind]

theorem readBitsWith_real {v : Nat} {t : State} (hp : (peekBits draw n).run s = .ok v s)
    (hc : (consume n).run s = .ok () t) : (readBitsWith draw n).run s = .ok (BitVec.ofNat n v) t := by
  rw [readBitsWith_eq, M.bind_ok hp, M.bind_ok hc, EStateM.run_pure]

theorem readBitsWith_phantom {v : Nat} {e : Stop} (hp : (peekBits draw n).run s = .ok v s)
    (hc : (consume n).run s = .error e s) : (readBitsWith draw n).run s = .error e s := by
  rw [readBitsWith_eq, M.bind_ok hp, M.bind_error hc]

theorem readBitsWith_unfetched {e : Stop} (hp : (peekBits draw n).run s = .error e s) :
    (readBitsWith draw n).run s = .error e s := by
  rw [readBitsWith_eq, M.bind_error hp]

end reads

/-- Settles O45: the fetch, then the first phantom bit among those consumed, decide which of the three outcomes it is. -/
theorem readBitsAnswersOrTruncates : Obligations.ReadBitsAnswersOrTruncates := by
  intro s n draw
  refine ⟨fun hf hr => ?_, fun hf => ⟨fun hreal => ?_, fun p hn hp hreal => ?_⟩⟩
  · exact readBitsWith_unfetched (peekBits_error (fetchBits_raise (not_canFetch.2 ⟨hf, hr⟩)) draw)
  · have hfield : s.field 0 n = BitVec.ofNat n (s.bitsAhead draw n) :=
      congrArg (BitVec.ofNat n) (segBits_draw hreal noDraw draw)
    rw [hfield]
    exact ⟨readBitsWith_real (peekBits_ok (fetchBits_canFetch hf) draw) (consume_real (firstPhantom_none.2 hreal)),
      fun k hk => getMsbD_segBits hk⟩
  · exact readBitsWith_phantom (peekBits_ok (fetchBits_canFetch hf) draw)
      (consume_phantom (firstPhantom_of_endsAt hn hp hreal))

end Sys2Proof.Machine
end

section
/-! SUPPORT. The accumulator form of the bit reader (spec/40_bitreader.md R109): each of its operations, from a reader
that represents the cursor, beside the operation of the cursor form that it stands for. -/

namespace Sys2Proof.Machine

section accumulator

variable {s : State} {draw : Nat → Byte} {r q : AccReader} {segBase c n : Nat}

/-! ### Sequences in the accumulator form -/

theorem acc_bind_ok {α β : Type} (a : α) (f : α → Except Stop β) : (Except.ok a >>= f) = f a := rfl

theorem acc_bind_error {α β : Type} (e : Stop) (f : α → Except Stop β) : (Except.error e >>= f) = .error e := rfl

/-! ### A word as a field of 16 bits -/

/-- The first bits of a word are its highest (R100). -/
theorem segBits_word (chunk : List Byte) (draw : Nat → Byte) (segBase k : Nat) : ∀ n, n ≤ 16 →
    segBits chunk draw segBase (16 * k) n = (segWord chunk draw segBase k).toNat / 2 ^ (16 - n)
  | 0, _ => by rw [segBits, Nat.div_eq_of_lt (segWord chunk draw segBase k).isLt]
  | n + 1, hn => by
    have hbit : segBit chunk draw segBase (16 * k + n) = (segWord chunk draw segBase k).toNat.testBit (15 - n) := by
      rw [segBit, show (16 * k + n) / 16 = k by omega, show (16 * k + n) % 16 = n by omega]
      rfl
    rw [segBits, segBits_word chunk draw segBase k n (by omega), hbit, Nat.toNat_testBit,
      show 16 - n = 15 - n + 1 by omega, Nat.pow_succ, ← Nat.div_div_eq_div_mul, show 16 - (n + 1) = 15 - n by omega]
    omega

theorem segWord_toNat (chunk : List Byte) (draw : Nat → Byte) (segBase k : Nat) :
    (segWord chunk draw segBase k).toNat =
      (inByte chunk draw (segBase + 2 * k)).toNat + 256 * (inByte chunk draw (segBase + 2 * k + 1)).toNat := by
  rw [segWord, BitVec.toNat_append, ← Nat.shiftLeft_add_eq_or_of_lt (BitVec.isLt _), Nat.shiftLeft_eq]
  omega

/-! ### A reader that represents a position -/

/-- InitBits of the accumulator form (R109) starts at bit 0 of the segment. -/
theorem accInit_represents (s : State) (draw : Nat → Byte) (r : AccReader) :
    (accInit r).represents s draw r.inPos 0 :=
  ⟨Nat.zero_le _, rfl, by simp [accInit], (Nat.zero_mul _).symm, fun _ h => absurd h (Nat.lt_irrefl 0)⟩

namespace AccReader.represents

theorem position_eq (h : r.represents s draw segBase c) : r.position = 8 * segBase + c := by
  obtain ⟨-, hmod, hfp, -, -⟩ := h
  unfold AccReader.position
  omega

/-- The accumulator's first bits are the next bits of the segment (R102). -/
theorem peek_eq (h : r.represents s draw segBase c) (hn : n ≤ r.nbits) :
    r.acc >>> (32 - n) = segBits s.chunk draw segBase c n := by
  obtain ⟨h32, -, -, hacc, -⟩ := h
  obtain ⟨j, hj⟩ := Nat.exists_eq_add_of_le hn
  rw [Nat.shiftRight_eq_div_pow, hacc, hj, show 32 - n = j + (32 - (n + j)) by omega, Nat.pow_add,
    Nat.mul_div_mul_right _ _ (by positivity), segBits_prefix]

/-- A bit of the accumulator is in the byte that ByteOf names (R100). -/
theorem byteOf_eq (h : r.represents s draw segBase c) {i : Nat} (hi : i < r.nbits) :
    r.byteOf i = Machine.byteOf segBase (c + i) := by
  obtain ⟨-, hmod, hfp, -, -⟩ := h
  simp only [AccReader.byteOf, Machine.byteOf]
  split <;> split <;> omega

/-- Bits that are buffered have been fetched (R104). -/
theorem canFetch (h : r.represents s draw s.cur.segBase.toNat s.cur.c.toNat) (hn : n ≤ r.nbits) : s.canFetch n := by
  obtain ⟨-, hmod, hfp, -, hreal⟩ := h
  by_contra hf
  obtain ⟨hf, hr⟩ := not_canFetch.1 hf
  have := hreal hf
  rw [← Bool.not_eq_true, fetchesReal_iff] at hr
  omega

/-- After a removal the accumulator holds what follows the bits removed. -/
theorem remove (h : r.represents s draw segBase c) (hn : n ≤ r.nbits) :
    ({ r with acc := (r.acc <<< n) % 2 ^ 32, nbits := r.nbits - n } : AccReader).represents s draw segBase (c + n) := by
  obtain ⟨h32, hmod, hfp, hacc, hreal⟩ := h
  obtain ⟨j, hj⟩ := Nat.exists_eq_add_of_le hn
  have hpow : 2 ^ 32 = 2 ^ j * 2 ^ (32 - j) := by rw [← Nat.pow_add, Nat.add_sub_cancel' (by omega)]
  refine ⟨by dsimp only; omega, by dsimp only; omega, by dsimp only; omega, ?_,
    fun hf (hpos : 0 < r.nbits - n) => hreal hf (by omega)⟩
  calc (r.acc <<< n) % 2 ^ 32
      = (segBits s.chunk draw segBase c (n + j) * 2 ^ (32 - j)) % (2 ^ j * 2 ^ (32 - j)) := by
        rw [← hpow, Nat.shiftLeft_eq, hacc, hj, Nat.mul_assoc, ← Nat.pow_add, show 32 - (n + j) + n = 32 - j by omega]
    _ = segBits s.chunk draw segBase (c + n) (r.nbits - n) * 2 ^ (32 - (r.nbits - n)) := by
        rw [Nat.mul_mod_mul_right, segBits_suffix, hj, Nat.add_sub_cancel_left]

/-- A word put behind the bits of the accumulator (R109). -/
theorem refill_acc (h : r.represents s draw segBase c) (hn : r.nbits ≤ 16) :
    r.acc ||| (((inByte s.chunk draw r.fp).toNat + 256 * (inByte s.chunk draw (r.fp + 1)).toNat) <<<
        (32 - 16 - r.nbits)) =
      segBits s.chunk draw segBase c (r.nbits + 16) * 2 ^ (32 - (r.nbits + 16)) := by
  obtain ⟨-, hmod, hfp, hacc, -⟩ := h
  obtain ⟨k, hk⟩ : ∃ k, c + r.nbits = 16 * k := ⟨(c + r.nbits) / 16, by omega⟩
  obtain ⟨j, hj⟩ := Nat.exists_eq_add_of_le hn
  have hfp : r.fp = segBase + 2 * k := by omega
  have hword : segBits s.chunk draw segBase (c + r.nbits) 16 =
      (inByte s.chunk draw r.fp).toNat + 256 * (inByte s.chunk draw (r.fp + 1)).toNat := by
    rw [hk, hfp, segBits_word _ _ _ _ 16 le_rfl, segWord_toNat, Nat.sub_self, Nat.pow_zero, Nat.div_one]
  rw [← hword, hacc, ← Nat.shiftLeft_eq, show 32 - 16 - r.nbits = j by omega, show 32 - r.nbits = 16 + j by omega,
    Nat.shiftLeft_add, ← Nat.shiftLeft_or_distrib, ← Nat.shiftLeft_add_eq_or_of_lt (segBits_lt 16), Nat.shiftLeft_eq,
    Nat.shiftLeft_eq, segBits_add, show 32 - (r.nbits + 16) = j by omega, Nat.mul_comm (2 ^ 16)]

/-- A reader that has fetched one word more (R109). -/
theorem refill (h : r.represents s draw segBase c) (hn : r.nbits ≤ 16)
    (hreal : s.params.phantomFetch = .fault → r.fp + 1 < s.chunk.length) :
    ({ r with
        acc := r.acc ||| (((inByte s.chunk draw r.fp).toNat + 256 * (inByte s.chunk draw (r.fp + 1)).toNat) <<<
          (32 - 16 - r.nbits))
        nbits := r.nbits + 16, fp := r.fp + 2 } : AccReader).represents s draw segBase c := by
  have hacc := h.refill_acc hn
  obtain ⟨-, hmod, hfp, -, -⟩ := h
  exact ⟨by dsimp only; omega, by dsimp only; omega, by dsimp only; omega, hacc, fun hf _ => hreal hf⟩

end AccReader.represents

/-! ### Ensure -/

/-- One turn of Ensure's loop: a word more, or under PHANTOM_FETCH = Fault TruncatedInput at the next bit. -/
theorem accRefill_cases (h : r.represents s draw segBase c) (hn : r.nbits ≤ 16) :
    (∃ q, accRefill s draw r = .ok q ∧ q.represents s draw segBase c ∧ q.nbits = r.nbits + 16) ∨
      (s.params.phantomFetch = .fault ∧ s.chunk.length ≤ r.fp + 1 ∧
        accRefill s draw r = .error (.raise .truncatedInput (some (8 * segBase + c)))) := by
  by_cases hf : s.params.phantomFetch = .fault ∧ s.chunk.length ≤ r.fp + 1
  · exact .inr ⟨hf.1, hf.2, by rw [accRefill, if_pos hf, h.position_eq]⟩
  · exact .inl ⟨_, if_neg hf, h.refill hn fun hp => not_le.1 fun hl => hf ⟨hp, hl⟩, rfl⟩

/-- Ensure's loop buffers `n` bits, or a word of these `n` bits has a phantom byte and may not be fetched (R104). -/
theorem accEnsureIn_cases (hn : n ≤ 17) : ∀ {turns : Nat} {r : AccReader}, r.represents s draw segBase c →
    n ≤ r.nbits + 16 * turns →
    (∃ q, accEnsureIn s draw n turns r = .ok q ∧ q.represents s draw segBase c ∧ n ≤ q.nbits) ∨
      (s.params.phantomFetch = .fault ∧ fetchesReal s.chunk.length segBase c n = false ∧
        accEnsureIn s draw n turns r = .error (.raise .truncatedInput (some (8 * segBase + c))))
  | 0, r, h, ht => .inl ⟨r, rfl, h, ht⟩
  | turns + 1, r, h, ht => by
    unfold accEnsureIn
    by_cases hlt : r.nbits < n
    · rw [if_pos hlt]
      rcases accRefill_cases h (by omega) with ⟨q, hq, hrep, hbits⟩ | ⟨hf, hl, he⟩
      · rw [hq, acc_bind_ok]
        exact accEnsureIn_cases hn hrep (by omega)
      · refine .inr ⟨hf, ?_, by rw [he, acc_bind_error]⟩
        obtain ⟨-, hmod, hfp, -, -⟩ := h
        rw [← Bool.not_eq_true, fetchesReal_iff]
        omega
    · rw [if_neg hlt]
      exact .inl ⟨r, rfl, h, by omega⟩

/-- Ensure buffers `n` bits where Fetch passes, and raises where it raises. -/
theorem accEnsure_cases (h : r.represents s draw s.cur.segBase.toNat s.cur.c.toNat) (hn : n ≤ 17) :
    (∃ q, accEnsure s draw n r = .ok q ∧ (fetchBits n).run s = .ok () s ∧
        q.represents s draw s.cur.segBase.toNat s.cur.c.toNat ∧ n ≤ q.nbits) ∨
      ∃ stop, accEnsure s draw n r = .error stop ∧ (fetchBits n).run s = .error stop s := by
  rcases accEnsureIn_cases hn h (turns := 2) (by omega) with ⟨q, hq, hrep, hbits⟩ | ⟨hf, hr, he⟩
  · exact .inl ⟨q, hq, fetchBits_canFetch (hrep.canFetch hbits), hrep, hbits⟩
  · exact .inr ⟨_, he, fetchBits_raise (not_canFetch.2 ⟨hf, hr⟩)⟩

/-! ### Peek, Remove -/

/-- Peek answers what PeekBits answers, or raises as it. -/
theorem accPeek_cases (h : r.represents s draw s.cur.segBase.toNat s.cur.c.toNat) (hn : n ≤ 17) :
    (∃ q, accPeek s draw n r = .ok (s.bitsAhead draw n, q) ∧ (peekBits draw n).run s = .ok (s.bitsAhead draw n) s ∧
        q.represents s draw s.cur.segBase.toNat s.cur.c.toNat ∧ n ≤ q.nbits) ∨
      ∃ stop, accPeek s draw n r = .error stop ∧ (peekBits draw n).run s = .error stop s := by
  unfold accPeek
  rcases accEnsure_cases h hn with ⟨q, hq, hfetch, hrep, hbits⟩ | ⟨stop, he, hfetch⟩
  · refine .inl ⟨q, ?_, peekBits_ok hfetch draw, hrep, hbits⟩
    rw [hq, acc_bind_ok, State.bitsAhead, ← hrep.peek_eq hbits]
    rfl
  · exact .inr ⟨stop, by rw [he, acc_bind_error], peekBits_error hfetch draw⟩

/-- Remove of real bits drops them (R109). -/
theorem accRemove_real (h : r.represents s draw segBase c) (hn : n ≤ r.nbits)
    (hp : firstPhantom s.chunk.length segBase c n = none) :
    accRemove s n r = .ok { r with acc := (r.acc <<< n) % 2 ^ 32, nbits := r.nbits - n } := by
  have hreal := firstPhantom_none.1 hp
  unfold accRemove
  rw [List.find?_eq_none.2 fun i hi => ?_]
  have hi := List.mem_range.1 hi
  rw [h.byteOf_eq (by omega), decide_eq_true_eq, not_le]
  exact hreal i hi

/-- The phantom rule of Remove finds the first phantom bit (R109, R105). -/
theorem accRemove_phantom {b : Nat} (h : r.represents s draw segBase c) (hn : n ≤ r.nbits)
    (hp : firstPhantom s.chunk.length segBase c n = some b) :
    accRemove s n r = .error (.raise .truncatedInput (some (8 * segBase + b))) := by
  obtain ⟨hb, hlt, hphantom, hreal⟩ := firstPhantom_some hp
  obtain ⟨i, rfl⟩ := Nat.exists_eq_add_of_le hb
  have hfind : (List.range n).find? (fun j => decide (s.chunk.length ≤ r.byteOf j)) = some i := by
    refine List.find?_range_eq_some.2 ⟨?_, List.mem_range.2 (by omega), fun j hj => ?_⟩
    · rw [h.byteOf_eq (by omega)]
      exact decide_eq_true hphantom
    · rw [h.byteOf_eq (by omega), Bool.not_eq_true', decide_eq_false_iff_not, not_le]
      exact hreal _ (by omega) (by omega)
  unfold accRemove
  rw [hfind, h.position_eq, ← Nat.add_assoc]

/-- Remove moves the reader as Consume moves the cursor, or raises as it. -/
theorem accRemove_cases (h : r.represents s draw s.cur.segBase.toNat s.cur.c.toNat) (hn : n ≤ r.nbits) :
    (∃ q, accRemove s n r = .ok q ∧ (consume n).run s = .ok () (s.skip n) ∧
        q.represents s draw s.cur.segBase.toNat (s.cur.c.toNat + n)) ∨
      ∃ stop, accRemove s n r = .error stop ∧ (consume n).run s = .error stop s := by
  cases hp : firstPhantom s.chunk.length s.cur.segBase.toNat s.cur.c.toNat n with
  | none => exact .inl ⟨_, accRemove_real h hn hp, consume_real hp, h.remove hn⟩
  | some b => exact .inr ⟨_, accRemove_phantom h hn hp, consume_phantom hp⟩

/-! ### ReadBits -/

/-- ReadBits of the accumulator form answers and moves as that of the cursor form, or raises as it. -/
theorem accRead_cases (h : r.represents s draw s.cur.segBase.toNat s.cur.c.toNat) (hn : n ≤ 17) :
    (∃ q, accRead s draw n r = .ok (s.bitsAhead draw n, q) ∧
        (readBitsWith draw n).run s = .ok (BitVec.ofNat n (s.bitsAhead draw n)) (s.skip n) ∧
        q.represents s draw s.cur.segBase.toNat (s.cur.c.toNat + n)) ∨
      ∃ stop, accRead s draw n r = .error stop ∧ (readBitsWith draw n).run s = .error stop s := by
  unfold accRead
  rcases accPeek_cases h hn with ⟨q, hq, hpeek, hrep, hbits⟩ | ⟨stop, he, hpeek⟩
  · rcases accRemove_cases hrep hbits with ⟨t, ht, hconsume, hrep⟩ | ⟨stop, he, hconsume⟩
    · exact .inl ⟨t, by simp only [hq, ht, acc_bind_ok]; rfl, readBitsWith_real hpeek hconsume, hrep⟩
    · exact .inr ⟨stop, by simp only [hq, he, acc_bind_ok, acc_bind_error], readBitsWith_phantom hpeek hconsume⟩
  · exact .inr ⟨stop, by rw [he, acc_bind_error], readBitsWith_unfetched hpeek⟩

/-! ### DecodeSym -/

theorem assignLength_len (l : Nat) : ∀ (lens : List (Nat × Nat)) (code : Nat),
    ∀ e ∈ (assignLength l lens code).1, e.len = l
  | [], _, e, he => nomatch he
  | (sym, len) :: rest, code, e, he => by
    unfold assignLength at he
    split at he
    · rcases List.mem_cons.1 he with rfl | he
      · rfl
      · exact assignLength_len l rest (code + 1) e he
    · exact assignLength_len l rest code e he

theorem assignFrom_len (lens : List (Nat × Nat)) : ∀ n l code, ∀ e ∈ assignFrom lens n l code, e.len < l + n
  | 0, _, _, _, he => nomatch he
  | n + 1, l, code, e, he => by
    rcases List.mem_append.1 he with he | he
    · rw [assignLength_len l lens code e he]
      omega
    · have := assignFrom_len lens n (l + 1) _ e he
      omega

/-- A canonical code has codes of at most 16 bits (spec/41_huffman.md R121). -/
theorem canonicalCode_len {lens : List (Nat × Nat)} {e : CodeEntry} (he : e ∈ canonicalCode lens) : e.len ≤ 16 := by
  have := assignFrom_len lens 16 1 0 e he
  omega

/-- DecodeSym of the accumulator form on codes of at most 16 bits: both forms look up the same 16 bits, and then remove
or consume the same code (spec/41_huffman.md R126). -/
theorem accDecodeSym_codes_cases (h : r.represents s draw s.cur.segBase.toNat s.cur.c.toNat) {entries : List CodeEntry}
    (hlen : ∀ e ∈ entries, e.len ≤ 16) :
    (∃ sym len q, accDecodeSym s draw (.codes entries) r = .ok (sym, q) ∧
        (decodeSymPeek draw (.codes entries)).run s = .ok sym (s.skip len) ∧
        q.represents s draw s.cur.segBase.toNat (s.cur.c.toNat + len)) ∨
      ∃ stop, accDecodeSym s draw (.codes entries) r = .error stop ∧
        (decodeSymPeek draw (.codes entries)).run s = .error stop s := by
  unfold accDecodeSym decodeSymPeek
  rcases accPeek_cases h (n := 16) (by omega) with ⟨q, hq, hpeek, hrep, hbits⟩ | ⟨stop, he, hpeek⟩
  · simp only [M.bind_ok hpeek, hq, acc_bind_ok]
    cases hfind : entries.find? (fun e => s.bitsAhead draw 16 / 2 ^ (16 - e.len) = e.code) with
    | none => exact .inr ⟨_, rfl, rfl⟩
    | some e =>
      have hle := hlen e (List.mem_of_find?_eq_some hfind)
      rcases accRemove_cases hrep (n := e.len) (by omega) with ⟨t, ht, hconsume, hrep⟩ | ⟨stop, he, hconsume⟩
      · exact .inl ⟨e.sym, e.len, t, by simp only [ht, acc_bind_ok]; rfl, M.bind_ok hconsume, hrep⟩
      · exact .inr ⟨stop, by simp only [he, acc_bind_error], M.bind_error hconsume⟩
  · exact .inr ⟨stop, by simp only [he, acc_bind_error], M.bind_error hpeek⟩

/-- DecodeSym of an EMPTY or complete table (spec/41_huffman.md R126, R127). -/
theorem accDecodeSym_cases (h : r.represents s draw s.cur.segBase.toNat s.cur.c.toNat) {table : DecodeTable}
    (ht : TableOk n table) :
    (∃ sym len q, accDecodeSym s draw table r = .ok (sym, q) ∧
        (decodeSymPeek draw table).run s = .ok sym (s.skip len) ∧
        q.represents s draw s.cur.segBase.toNat (s.cur.c.toNat + len)) ∨
      ∃ stop, accDecodeSym s draw table r = .error stop ∧ (decodeSymPeek draw table).run s = .error stop s := by
  rcases ht with rfl | ⟨lens, -, rfl⟩
  · exact .inr ⟨_, rfl, rfl⟩
  · exact accDecodeSym_codes_cases h fun e => canonicalCode_len

/-! ### AlignToRaw -/

/-- With 16 bits buffered the fetch pointer is behind the cursor's word, or one word further if more are buffered. -/
theorem AccReader.represents.alignedPos (h : r.represents s draw segBase c) (hn : 16 ≤ r.nbits) :
    (if 16 < r.nbits then r.fp - 2 else r.fp) = segBase + 2 * (c / 16 + 1) := by
  obtain ⟨h32, hmod, hfp, -, -⟩ := h
  split <;> omega

/-- AlignToRaw empties the accumulator and leaves the raw position of R106, or raises as the cursor form. -/
theorem accAlign_cases (h : r.represents s draw s.cur.segBase.toNat s.cur.c.toNat) :
    (∃ pos, pos = s.cur.segBase.toNat + 2 * (s.cur.c.toNat / 16 + 1) ∧
        accAlign s draw r = .ok { acc := 0, nbits := 0, fp := pos, inPos := pos } ∧
        alignToRaw.run s = .ok () { s with cur := { s.cur with mode := .raw, inPos := narrow pos, c := 0 } }) ∨
      ∃ stop, accAlign s draw r = .error stop ∧ alignToRaw.run s = .error stop s := by
  unfold accAlign alignToRaw
  rcases accEnsure_cases h (n := 16) (by omega) with ⟨q, hq, hfetch, hrep, hbits⟩ | ⟨stop, he, hfetch⟩
  · refine .inl ⟨_, rfl, ?_, M.bind_ok hfetch⟩
    rw [← hrep.alignedPos hbits, hq, acc_bind_ok]
    rfl
  · exact .inr ⟨stop, by rw [he, acc_bind_error], M.bind_error hfetch⟩

end accumulator

/-- Settles O46: operation by operation, each with its two outcomes. -/
theorem accumulatorFormConforms : Obligations.AccumulatorFormConforms := by
  intro s draw r
  refine ⟨accInit_represents s draw r, fun h => ⟨fun n _ hn => ?_, fun n _ hn _ => ?_, fun n table ht _ => ?_, ?_⟩⟩
  · rcases accPeek_cases h (n := n) (by omega) with ⟨q, hq, hpeek, hrep, -⟩ | ⟨stop, he, hpeek⟩
    · rw [hq]; exact ⟨hpeek, hrep⟩
    · rw [he]; exact hpeek
  · rcases accRead_cases h hn with ⟨q, hq, hread, hrep⟩ | ⟨stop, he, hread⟩
    · rw [hq]; exact ⟨hread, segBits_lt n, hrep⟩
    · rw [he]; exact hread
  · rcases accDecodeSym_cases h ht with ⟨sym, len, q, hq, hdecode, hrep⟩ | ⟨stop, he, hdecode⟩
    · rw [hq]; exact ⟨len, hdecode, hrep⟩
    · rw [he]; exact hdecode
  · rcases accAlign_cases h with ⟨pos, hpos, hq, halign⟩ | ⟨stop, he, halign⟩
    · rw [hq]; exact ⟨rfl, rfl, hpos, rfl, halign⟩
    · rw [he]; exact halign

end Sys2Proof.Machine
end

section
/-! SUPPORT. The canonical Huffman code (spec/41_huffman.md R120 to R122): Build's three answers, the order in which it
takes the symbols, and the 16-bit patterns that begin with a code. -/

namespace Sys2Proof.Machine

/-! ### What Build answers (R122) -/

@[simp] theorem buildTable_nil : buildTable [] = .ok .empty := rfl

section buildTable

variable {lens : List (Nat × Nat)} (h : lens ≠ [])
include h

theorem buildTable_oversubscribed (hk : 2 ^ 16 < kraftSum lens) : buildTable lens = .error .oversubscribed := by
  rw [buildTable, if_neg h, if_pos hk]

theorem buildTable_incomplete (hk : kraftSum lens < 2 ^ 16) : buildTable lens = .error .incomplete := by
  rw [buildTable, if_neg h, if_neg (by omega), if_pos hk]

theorem buildTable_complete (hk : kraftSum lens = 2 ^ 16) :
    buildTable lens = .ok (.codes (canonicalCode lens)) := by
  rw [buildTable, if_neg h, if_neg (by omega), if_neg (by omega)]

theorem buildTable_ne_empty : buildTable lens ≠ .ok .empty := by
  rcases Nat.lt_trichotomy (kraftSum lens) (2 ^ 16) with hk | hk | hk
  · simp [buildTable_incomplete h hk]
  · simp [buildTable_complete h hk]
  · simp [buildTable_oversubscribed h hk]

end buildTable

/-- Settles O47: an answer for each of the three Kraft sums, and none of them is EMPTY. -/
theorem buildAcceptsExactlyCompleteSets : Obligations.BuildAcceptsExactlyCompleteSets := fun lens =>
  ⟨⟨fun he => by_contra fun h => buildTable_ne_empty h he, fun h => by rw [h, buildTable_nil]⟩,
    fun h => ⟨buildTable_oversubscribed h, buildTable_incomplete h, buildTable_complete h⟩⟩

/-! ### The symbols Build takes from a length array (R120) -/

/-- The indices of a canonical array rise. -/
theorem cellsWf_pairwise {w : Nat} {bg : Option (BitVec w)} : ∀ {m : Cells w}, cellsWf bg m = true →
    m.Pairwise (fun a b => a.1 < b.1)
  | [], _ => .nil
  | _ :: _, h =>
    have ⟨_, hlt, hm⟩ := cellsWf_cons.1 h
    .cons hlt (cellsWf_pairwise hm)

/-- A canonical array lists exactly the indices that read as something else than an unlisted one. -/
theorem mem_cells_iff {w : Nat} {bg : Option (BitVec w)} {a : Nat} {v : BitVec w} : ∀ {m : Cells w},
    cellsWf bg m = true → ((a, v) ∈ m ↔ bg ≠ some v ∧ readCell bg m a = some v)
  | [], _ => by simp [readCell]
  | (k, u) :: m, h => by
    obtain ⟨hu, hlt, hm⟩ := cellsWf_cons.1 h
    rw [List.mem_cons, readCell]
    by_cases hak : a = k
    · subst hak
      have hnot : (a, v) ∉ m := fun hmem => Nat.lt_irrefl a (hlt _ hmem)
      rw [if_pos rfl]
      refine ⟨fun hmem => ?_, fun ⟨_, huv⟩ => .inl (by cases huv; rfl)⟩
      cases hmem.resolve_right hnot
      exact ⟨hu, rfl⟩
    · rw [if_neg hak, mem_cells_iff hm]
      simp [hak]

theorem readCell_some_isSome {w : Nat} (v : BitVec w) (x : Nat) : ∀ m : Cells w, (readCell (some v) m x).isSome
  | [] => rfl
  | (_, _) :: m => by
    rw [readCell]
    split
    · rfl
    · exact readCell_some_isSome v x m

theorem readCell_zero_eq_lenAt {w : Nat} (m : Cells w) (x : Nat) : readCell (some 0) m x = some (lenAt m x) := by
  obtain ⟨v, hv⟩ := Option.isSome_iff_exists.1 (readCell_some_isSome 0 x m)
  rw [lenAt, hv, Option.getD_some]

/-- A canonical length array lists exactly the non-zero lengths. -/
theorem mem_lens_iff {w : Nat} {m : Cells w} (h : cellsWf (some 0) m = true) {x : Nat} {v : BitVec w} :
    (x, v) ∈ m ↔ v ≠ 0 ∧ lenAt m x = v := by
  rw [mem_cells_iff h, readCell_zero_eq_lenAt, Option.some_inj, Ne, Option.some_inj, ← Ne, ne_comm]

theorem codeLens_pairwise {w : Nat} (n : Nat) {m : Cells w} (h : cellsWf (some 0) m = true) :
    (codeLens m n).Pairwise (fun a b => a.1 < b.1) :=
  List.pairwise_map.2 ((cellsWf_pairwise h).filter _)

theorem mem_codeLens_iff {w n : Nat} {m : Cells w} (h : cellsWf (some 0) m = true) {sym len : Nat} :
    (sym, len) ∈ codeLens m n ↔ sym < n ∧ len ≠ 0 ∧ (lenAt m sym).toNat = len := by
  rw [codeLens, List.mem_map]
  constructor
  · rintro ⟨⟨x, v⟩, hc, hxv⟩
    cases hxv
    obtain ⟨hmem, hcond⟩ := List.mem_filter.1 hc
    rw [Bool.and_eq_true, decide_eq_true_eq] at hcond
    obtain ⟨hv, hx⟩ := (mem_lens_iff h).1 hmem
    exact ⟨hcond.1, BitVec.toNat_ne.1 hv, congrArg BitVec.toNat hx⟩
  · rintro ⟨hn, h0, rfl⟩
    have hv : lenAt m sym ≠ 0 := BitVec.toNat_ne.2 h0
    exact ⟨(sym, lenAt m sym), List.mem_filter.2 ⟨(mem_lens_iff h).2 ⟨hv, rfl⟩, by simpa [hn] using hv⟩, rfl⟩

/-! ### Which symbols have codes, and in what order (R121) -/

/-- The symbol of a code with its length, as in the list that Build assigns codes to. -/
def CodeEntry.symLen (e : CodeEntry) : Nat × Nat := (e.sym, e.len)

@[simp] theorem CodeEntry.symLen_mk (sym len code : Nat) : (CodeEntry.mk sym len code).symLen = (sym, len) := rfl

theorem assignLength_symLen (l : Nat) : ∀ (lens : List (Nat × Nat)) (code : Nat),
    (assignLength l lens code).1.map CodeEntry.symLen = lens.filter (fun c => c.2 = l)
  | [], _ => rfl
  | (sym, len) :: rest, code => by
    unfold assignLength
    by_cases h : len = l
    · simp [h, assignLength_symLen l rest]
    · simp [h, assignLength_symLen l rest]

theorem assignFrom_symLen (lens : List (Nat × Nat)) : ∀ n l code, (assignFrom lens n l code).map CodeEntry.symLen =
    (List.range' l n).flatMap fun k => lens.filter (fun c => c.2 = k)
  | 0, _, _ => rfl
  | n + 1, l, code => by
    simp [assignFrom, assignLength_symLen, assignFrom_symLen lens n, List.range'_succ]

/-- The symbols with a length among distinct ones, taken length by length, are these symbols. -/
theorem flatMap_filter_perm (lens : List (Nat × Nat)) : ∀ {ks : List Nat}, ks.Nodup →
    (ks.flatMap fun k => lens.filter (fun c => c.2 = k)).Perm (lens.filter (fun c => c.2 ∈ ks))
  | [], _ => by simp
  | k :: ks, h => by
    obtain ⟨hk, hks⟩ := List.nodup_cons.1 h
    have hfirst : (lens.filter fun c => c.2 ∈ k :: ks).filter (fun c => c.2 = k) = lens.filter (fun c => c.2 = k) := by
      rw [List.filter_filter]
      exact List.filter_congr fun c _ => by simp +contextual
    have hrest : (lens.filter fun c => c.2 ∈ k :: ks).filter (fun c => !decide (c.2 = k)) =
        lens.filter (fun c => c.2 ∈ ks) := by
      rw [List.filter_filter]
      exact List.filter_congr fun c _ => by
        by_cases hc : c.2 = k <;> simp [hc, hk]
    have hsplit := List.filter_append_perm (fun c => decide (c.2 = k)) (lens.filter fun c => c.2 ∈ k :: ks)
    rw [hfirst, hrest] at hsplit
    rw [List.flatMap_cons]
    exact ((flatMap_filter_perm lens hks).append_left _).trans hsplit

/-- The canonical code has one code for each symbol with a length. -/
theorem canonicalCode_perm {lens : List (Nat × Nat)} (hlen : ∀ c ∈ lens, 1 ≤ c.2 ∧ c.2 ≤ 16) :
    ((canonicalCode lens).map CodeEntry.symLen).Perm lens := by
  have hall : lens.filter (fun c => c.2 ∈ List.range' 1 16) = lens := List.filter_eq_self.2 fun c hc => by
    have := hlen c hc
    simp only [List.mem_range'_1, decide_eq_true_eq]
    omega
  have hperm := flatMap_filter_perm lens (List.nodup_range' (s := 1) (n := 16))
  rwa [hall, ← assignFrom_symLen lens 16 1 0] at hperm

theorem mem_lens_iff_code {lens : List (Nat × Nat)} (hlen : ∀ c ∈ lens, 1 ≤ c.2 ∧ c.2 ≤ 16) {sym len : Nat} :
    (sym, len) ∈ lens ↔ ∃ e ∈ canonicalCode lens, e.sym = sym ∧ e.len = len := by
  rw [← (canonicalCode_perm hlen).mem_iff, List.mem_map]
  simp [CodeEntry.symLen]

/-- Codes are in order of length, then of symbol index, where the symbols come in index order. -/
theorem canonicalCode_ordered {lens : List (Nat × Nat)} (hlt : lens.Pairwise (fun a b => a.1 < b.1)) :
    (canonicalCode lens).Pairwise (fun e f => e.len < f.len ∨ e.len = f.len ∧ e.sym < f.sym) := by
  have hpairs : ((canonicalCode lens).map CodeEntry.symLen).Pairwise
      (fun a b => a.2 < b.2 ∨ a.2 = b.2 ∧ a.1 < b.1) := by
    rw [canonicalCode, assignFrom_symLen, List.pairwise_flatMap]
    constructor
    · intro k _
      refine (hlt.filter _).imp_of_mem fun {a b} ha hb hab => .inr ⟨?_, hab⟩
      rw [of_decide_eq_true (List.mem_filter.1 ha).2, of_decide_eq_true (List.mem_filter.1 hb).2]
    · refine (List.pairwise_lt_range' 1).imp fun {j k} hjk a ha b hb => .inl ?_
      rwa [of_decide_eq_true (List.mem_filter.1 ha).2, of_decide_eq_true (List.mem_filter.1 hb).2]
  exact List.pairwise_map.1 hpairs

/-! ### The 16-bit patterns that begin with a code -/

/-- How many 16-bit patterns begin with the code. -/
def CodeEntry.span (e : CodeEntry) : Nat := 2 ^ (16 - e.len)

/-- The first 16-bit pattern that begins with the code. -/
def CodeEntry.start (e : CodeEntry) : Nat := e.code * e.span

theorem CodeEntry.begins_iff {e : CodeEntry} {p : Nat} :
    p / 2 ^ (16 - e.len) = e.code ↔ e.start ≤ p ∧ p < e.start + e.span := by
  rw [Nat.div_eq_iff (by positivity)]
  have : 0 < 2 ^ (16 - e.len) := by positivity
  simp only [start, span]
  omega

/-- From pattern `a` on, the patterns of each code follow those of the code before it. -/
def Tiled : Nat → List CodeEntry → Prop
  | _, [] => True
  | a, e :: es => e.start = a ∧ Tiled (a + e.span) es

/-- How many patterns begin with a code of the list. -/
def spanSum (es : List CodeEntry) : Nat := (es.map CodeEntry.span).sum

@[simp] theorem spanSum_cons (e : CodeEntry) (es : List CodeEntry) : spanSum (e :: es) = e.span + spanSum es := rfl

theorem Tiled.append : ∀ {xs ys : List CodeEntry} {a : Nat}, Tiled a xs → Tiled (a + spanSum xs) ys → Tiled a (xs ++ ys)
  | [], _, _, _, hy => hy
  | x :: xs, _, a, hx, hy => ⟨hx.1, hx.2.append (by rwa [spanSum_cons, ← Nat.add_assoc] at hy)⟩

/-- The patterns of a tiled list lie at `a` or above. -/
theorem Tiled.le_start : ∀ {es : List CodeEntry} {a : Nat} {e : CodeEntry}, Tiled a es → e ∈ es → a ≤ e.start
  | x :: xs, a, e, h, he => by
    obtain ⟨hx, hxs⟩ := h
    rcases List.mem_cons.1 he with rfl | he
    · exact hx.ge
    · exact (Nat.le_add_right _ _).trans (hxs.le_start he)

/-- Each pattern of the range of a tiled list begins with exactly one of its codes. -/
theorem Tiled.existsUnique : ∀ {es : List CodeEntry} {a p : Nat}, Tiled a es → a ≤ p → p < a + spanSum es →
    ∃ e ∈ es, p / 2 ^ (16 - e.len) = e.code ∧ ∀ f ∈ es, p / 2 ^ (16 - f.len) = f.code → f = e
  | [], a, p, _, h1, h2 => absurd h2 (Nat.not_lt.2 h1)
  | x :: xs, a, p, h, h1, h2 => by
    obtain ⟨rfl, hxs⟩ := h
    by_cases hp : p < x.start + x.span
    · refine ⟨x, List.mem_cons_self, CodeEntry.begins_iff.2 ⟨h1, hp⟩,
        List.forall_mem_cons.2 ⟨fun _ => rfl, fun f hf hfp => ?_⟩⟩
      have := hxs.le_start hf
      have := CodeEntry.begins_iff.1 hfp
      omega
    · obtain ⟨e, he, hep, huniq⟩ := hxs.existsUnique (p := p) (by omega) (by rw [spanSum_cons] at h2; omega)
      exact ⟨e, List.mem_cons_of_mem x he, hep,
        List.forall_mem_cons.2 ⟨fun hxp => absurd (CodeEntry.begins_iff.1 hxp).2 hp, huniq⟩⟩

/-- In a tiled list the patterns of each code follow those of the code before it. -/
theorem Tiled.start_succ : ∀ {es : List CodeEntry} {a k : Nat} {e f : CodeEntry}, Tiled a es → es[k]? = some e →
    es[k + 1]? = some f → f.start = e.start + e.span
  | x :: y :: _, _, 0, e, f, h, he, hf => by
    obtain ⟨rfl, hy, -⟩ := h
    cases he
    cases hf
    exact hy
  | x :: xs, a, k + 1, e, f, h, he, hf => h.2.start_succ he hf

/-- The codes of one length, from `code` to before the one after them. -/
theorem assignLength_tiled (l : Nat) : ∀ (lens : List (Nat × Nat)) (code : Nat),
    Tiled (code * 2 ^ (16 - l)) (assignLength l lens code).1 ∧
      code * 2 ^ (16 - l) + spanSum (assignLength l lens code).1 = (assignLength l lens code).2 * 2 ^ (16 - l)
  | [], _ => ⟨trivial, rfl⟩
  | (sym, len) :: rest, code => by
    unfold assignLength
    split
    · obtain ⟨htiled, hsum⟩ := assignLength_tiled l rest (code + 1)
      rw [Nat.succ_mul] at htiled hsum
      exact ⟨⟨rfl, htiled⟩, by rw [← hsum, spanSum_cons, Nat.add_assoc]; rfl⟩
    · exact assignLength_tiled l rest code

/-- The codes from length `l` on, none longer than 16 bits. -/
theorem assignFrom_tiled (lens : List (Nat × Nat)) : ∀ n l code, l + n ≤ 17 →
    Tiled (code * 2 ^ (16 - l)) (assignFrom lens n l code)
  | 0, _, _, _ => trivial
  | 1, l, code, _ => (assignLength_tiled l lens code).1.append trivial
  | n + 2, l, code, h => by
    obtain ⟨htiled, hsum⟩ := assignLength_tiled l lens code
    refine htiled.append ?_
    have := assignFrom_tiled lens (n + 1) (l + 1) ((assignLength l lens code).2 * 2) (by omega)
    rwa [Nat.mul_assoc, ← Nat.pow_succ', show (16 - (l + 1)).succ = 16 - l by omega, ← hsum] at this

theorem canonicalCode_tiled (lens : List (Nat × Nat)) : Tiled 0 (canonicalCode lens) := by
  have := assignFrom_tiled lens 16 1 0 (by omega)
  rwa [Nat.zero_mul] at this

theorem kraftSum_eq_sum : ∀ lens, kraftSum lens = (lens.map fun c => 2 ^ (16 - c.2)).sum
  | [] => rfl
  | (_, _) :: rest => by rw [kraftSum, kraftSum_eq_sum rest]; rfl

/-- The Kraft sum counts the patterns that begin with a code (R122). -/
theorem spanSum_canonicalCode {lens : List (Nat × Nat)} (hlen : ∀ c ∈ lens, 1 ≤ c.2 ∧ c.2 ≤ 16) :
    spanSum (canonicalCode lens) = kraftSum lens := by
  rw [kraftSum_eq_sum, ← ((canonicalCode_perm hlen).map _).sum_nat, List.map_map]
  rfl

theorem CompleteLens.existsUnique_code {n : Nat} {lens : List (Nat × Nat)} (h : CompleteLens n lens) {p : Nat}
    (hp : p < 2 ^ 16) : ∃ e ∈ canonicalCode lens,
      p / 2 ^ (16 - e.len) = e.code ∧ ∀ f ∈ canonicalCode lens, p / 2 ^ (16 - f.len) = f.code → f = e := by
  obtain ⟨hlens, hkraft⟩ := h
  refine (canonicalCode_tiled lens).existsUnique (Nat.zero_le p) ?_
  rwa [spanSum_canonicalCode fun c hc => (hlens c hc).2, hkraft, Nat.zero_add]

/-- Settles O48: the codes' ranges of patterns follow each other from 0 on, and the Kraft sum says that they end at
2^16. -/
theorem canonicalCodeCoversEveryPattern : Obligations.CanonicalCodeCoversEveryPattern := by
  intro n lens h p hp
  obtain ⟨e, he, hep, huniq⟩ := h.existsUnique_code hp
  have hmem : (e.sym, e.len) ∈ lens := (mem_lens_iff_code fun c hc => (h.1 c hc).2).2 ⟨e, he, rfl, rfl⟩
  obtain ⟨hsym, hpos, hle⟩ := h.1 _ hmem
  exact ⟨e, he, hep, hpos, hle, hsym, hmem, huniq⟩

/-- A code that follows one that is not longer is the one after it, shifted left by the difference in lengths. -/
theorem CodeEntry.code_of_start_succ {e f : CodeEntry} (hstart : f.start = e.start + e.span) (hle : e.len ≤ f.len)
    (h16 : f.len ≤ 16) : f.code = (e.code + 1) * 2 ^ (f.len - e.len) := by
  have hspan : e.span = 2 ^ (f.len - e.len) * f.span := by
    rw [span, span, ← Nat.pow_add]
    congr 1
    omega
  refine Nat.eq_of_mul_eq_mul_right (Nat.two_pow_pos (16 - f.len)) ?_
  calc f.code * f.span = e.code * e.span + e.span := hstart
    _ = (e.code + 1) * 2 ^ (f.len - e.len) * f.span := by rw [← Nat.succ_mul, hspan, Nat.mul_assoc]

theorem canonicalCode_head {lens : List (Nat × Nat)} {e : CodeEntry} (h : (canonicalCode lens)[0]? = some e) :
    e.code = 0 := by
  have htiled := canonicalCode_tiled lens
  cases hcodes : canonicalCode lens with
  | nil => simp [hcodes] at h
  | cons x xs =>
    rw [hcodes] at h htiled
    cases h
    exact (Nat.mul_eq_zero.1 htiled.1).resolve_right (Nat.two_pow_pos _).ne'

/-- Settles O60: the order is that of the symbols taken length by length, and the codes follow from their ranges of
patterns. -/
theorem canonicalCodeIsInOrder : Obligations.CanonicalCodeIsInOrder := by
  refine ⟨fun w n m h => ⟨codeLens_pairwise n h, fun sym len => mem_codeLens_iff h⟩, fun lens hlt hlen =>
    ⟨fun sym len => mem_lens_iff_code hlen, canonicalCode_ordered hlt, fun e => canonicalCode_head,
      fun k e f he hf => ?_⟩⟩
  refine CodeEntry.code_of_start_succ ((canonicalCode_tiled lens).start_succ he hf) ?_
    (canonicalCode_len (List.mem_of_getElem? hf))
  obtain ⟨hk, rfl⟩ := List.getElem?_eq_some_iff.1 he
  obtain ⟨hk1, rfl⟩ := List.getElem?_eq_some_iff.1 hf
  rcases List.pairwise_iff_getElem.1 (canonicalCode_ordered hlt) k (k + 1) hk hk1 (by omega) with h | ⟨h, -⟩
  · exact h.le
  · exact h.le

end Sys2Proof.Machine
end

section
/-! SUPPORT. Reading a code bit by bit (spec/93_implementation_defined.md I15) beside peeking 16 bits (spec/41_huffman.md
R126). -/

namespace Sys2Proof.Machine

theorem find?_eq_some_of_unique {α : Type} {p : α → Bool} {l : List α} {a : α} (ha : a ∈ l) (hp : p a = true)
    (huniq : ∀ b ∈ l, p b = true → b = a) : l.find? p = some a := by
  cases h : l.find? p with
  | none => exact absurd hp (List.find?_eq_none.1 h a ha)
  | some b => rw [huniq b (List.mem_of_find?_eq_some h) (List.find?_some h)]

/-- Reading bit by bit answers the first code that is complete, where its bits are real. -/
theorem walkCode_symbol {entries : List CodeEntry} {chunk : List Byte} {segBase b n sym : Nat}
    (hreal : ∀ k, k < n → byteOf segBase (b + k) < chunk.length)
    (hfind : findCode entries n (segBits chunk noDraw segBase b n) = some sym)
    (hshort : ∀ f ∈ entries, f.len < n → segBits chunk noDraw segBase b f.len ≠ f.code) :
    ∀ {fuel len : Nat}, len < n → n ≤ len + fuel →
      walkCode entries chunk segBase b fuel len (segBits chunk noDraw segBase b len) = .symbol sym n
  | 0, len, h1, h2 => by omega
  | fuel + 1, len, h1, h2 => by
    rw [walkCode, if_neg (hreal len h1).not_ge]
    by_cases hl : len + 1 = n
    · subst hl
      rw [segBits] at hfind
      simp only [hfind]
    · have hnone : findCode entries (len + 1) (segBits chunk noDraw segBase b (len + 1)) = none :=
        findCode_none fun f hf hlen hcode => hshort f hf (by omega) (by rw [hlen, hcode])
      rw [segBits] at hnone
      simp only [hnone]
      exact walkCode_symbol hreal hfind hshort (by omega) (by omega)

section peek

variable {s : State} {draw : Nat → Byte} {entries : List CodeEntry} {e : CodeEntry} {n : Nat}

/-- The `n` bits at the cursor lie in bytes of the chunk. -/
def State.realAhead (s : State) (n : Nat) : Prop :=
  ∀ i, i < n → byteOf s.cur.segBase.toNat (s.cur.c.toNat + i) < s.chunk.length

/-- `e` is the one code of the table that the peeked 16 bits begin with (R126). -/
def State.peeksCode (s : State) (draw : Nat → Byte) (entries : List CodeEntry) (e : CodeEntry) : Prop :=
  e ∈ entries ∧ s.bitsAhead draw 16 / 2 ^ (16 - e.len) = e.code ∧
    ∀ f ∈ entries, s.bitsAhead draw 16 / 2 ^ (16 - f.len) = f.code → f = e

/-- The first bits of the peeked 16 do not depend on the draw where they are real (R128). -/
theorem bitsAhead_div (hn : n ≤ 16) (hreal : s.realAhead n) :
    s.bitsAhead draw 16 / 2 ^ (16 - n) = s.bitsAhead noDraw n := by
  obtain ⟨k, hk⟩ := Nat.exists_eq_add_of_le hn
  rw [State.bitsAhead, State.bitsAhead, show 16 - n = k by omega, hk, segBits_prefix, segBits_draw hreal]

theorem field_toNat (s : State) (n : Nat) : (s.field 0 n).toNat = s.bitsAhead noDraw n := by
  rw [State.field, BitVec.toNat_ofNat, Nat.add_zero, Nat.mod_eq_of_lt (segBits_lt n), State.bitsAhead]

/-- A code whose bits are real and stand at the cursor is the one the peeked 16 bits begin with. -/
theorem State.peeksCode.eq_of_bitsAhead (h : s.peeksCode draw entries e) {f : CodeEntry} (hf : f ∈ entries)
    (hle : f.len ≤ 16) (hreal : s.realAhead f.len) (hcode : s.bitsAhead noDraw f.len = f.code) : f = e := by
  obtain ⟨-, -, huniq⟩ := h
  exact huniq f hf (by rw [bitsAhead_div hle hreal, hcode])

theorem State.peeksCode.findCode_eq (h : s.peeksCode draw entries e) (hle : e.len ≤ 16) (hreal : s.realAhead e.len) :
    findCode entries e.len (s.bitsAhead noDraw e.len) = some e.sym := by
  have hfind : entries.find? (fun f => f.len = e.len ∧ f.code = s.bitsAhead noDraw e.len) = some e := by
    obtain ⟨he, hcode, -⟩ := id h
    rw [bitsAhead_div hle hreal] at hcode
    refine find?_eq_some_of_unique he (decide_eq_true ⟨rfl, hcode.symm⟩) fun f hf hfe => ?_
    obtain ⟨hlen, hcode⟩ := of_decide_eq_true hfe
    exact h.eq_of_bitsAhead hf (by omega) (by rwa [hlen]) (by rw [hlen, hcode])
  rw [findCode, hfind]

/-- R126's form consumes the code that the peeked bits begin with. -/
theorem decodeSymPeek_eq_consume (hf : s.canFetch 16) (h : s.peeksCode draw entries e) :
    (decodeSymPeek draw (.codes entries)).run s = (do consume e.len; pure e.sym : M Nat).run s := by
  obtain ⟨he, hcode, huniq⟩ := h
  unfold decodeSymPeek
  rw [M.bind_ok (peekBits_ok (fetchBits_canFetch hf) draw),
    find?_eq_some_of_unique he (by simpa using hcode) fun f hf hfp => huniq f hf (by simpa using hfp)]

theorem decodeSymPeek_unfetched (hf : ¬ s.canFetch 16) :
    (decodeSymPeek draw (.codes entries)).run s =
      .error (.raise .truncatedInput (some (8 * s.cur.segBase.toNat + s.cur.c.toNat))) s :=
  M.bind_error (peekBits_error (fetchBits_raise hf) draw)

/-- Reading bit by bit answers the code that the peeked bits begin with, where its bits are real. -/
theorem decodeSym_real (hf : s.canFetch 16) (h : s.peeksCode draw entries e) (hpos : 1 ≤ e.len) (hle : e.len ≤ 16)
    (hreal : s.realAhead e.len) : (decodeSym (.codes entries)).run s = .ok e.sym (s.skip e.len) := by
  have hwalk : walkCode entries s.chunk s.cur.segBase.toNat s.cur.c.toNat 16 0 0 = .symbol e.sym e.len := by
    refine walkCode_symbol hreal (h.findCode_eq hle hreal) (fun f hf hlt hcode => ?_) hpos (by omega)
    have := h.eq_of_bitsAhead hf (by omega) (fun i hi => hreal i (by omega)) hcode
    rw [this] at hlt
    exact Nat.lt_irrefl _ hlt
  unfold decodeSym
  rw [M.bind_ok (fetchBits_canFetch hf), M.bind_ok (EStateM.run_get s), hwalk]
  rfl

/-- Reading bit by bit raises at the first phantom bit of the code that the peeked bits begin with: no code is complete
before it, since it would be that code. -/
theorem decodeSym_phantom (hf : s.canFetch 16) (h : s.peeksCode draw entries e) (hle : e.len ≤ 16) {b : Nat}
    (hb : firstPhantom s.chunk.length s.cur.segBase.toNat s.cur.c.toNat e.len = some b) :
    (decodeSym (.codes entries)).run s =
      .error (.raise .truncatedInput (some (8 * s.cur.segBase.toNat + b))) s := by
  obtain ⟨hcb, hlt, hphantom, hreal⟩ := firstPhantom_some hb
  obtain ⟨p, rfl⟩ := Nat.exists_eq_add_of_le hcb
  refine decodeSym_raise (.inr ⟨hf, p, by omega, ⟨hphantom, fun k hk => hreal _ (by omega) (by omega)⟩, rfl,
    fun f hfm hlen hcode => ?_⟩)
  rw [field_toNat] at hcode
  have := h.eq_of_bitsAhead hfm (by omega) (fun i hi => hreal _ (by omega) (by omega)) hcode
  rw [this] at hlen
  omega

end peek

/-- Settles O49: the table has one code that the peeked bits begin with, and both forms answer it, or raise at its first
phantom bit. -/
theorem decodeSymEqualsPeekForm : Obligations.DecodeSymEqualsPeekForm := by
  intro n table draw s htable
  rcases htable with rfl | ⟨lens, hlens, rfl⟩
  · rfl
  by_cases hf : s.canFetch 16
  · obtain ⟨e, he, hcode, hpos, hle, -, -, huniq⟩ := canonicalCodeCoversEveryPattern n lens hlens _ (segBits_lt 16)
    have hpeek : s.peeksCode draw (canonicalCode lens) e := ⟨he, hcode, huniq⟩
    rw [decodeSymPeek_eq_consume hf hpeek]
    cases hp : firstPhantom s.chunk.length s.cur.segBase.toNat s.cur.c.toNat e.len with
    | none =>
      rw [decodeSym_real hf hpeek hpos hle (firstPhantom_none.1 hp), M.bind_ok (consume_real hp), EStateM.run_pure]
    | some b => rw [decodeSym_phantom hf hpeek hle hp, M.bind_error (consume_phantom hp)]
  · rw [decodeSymPeek_unfetched hf, decodeSym_raise (.inl ⟨hf, rfl⟩)]

end Sys2Proof.Machine
end

section
/-! SUPPORT. The host commands (spec/42_commands.md R141, R142, R155): what INIT leaves, how DECOMPRESS and READ_STATE
are decoded, and what every command but INIT, and every frame header, leaves alone. -/

namespace Sys2Proof.Machine

/-! ### INIT -/

/-- The table of spec/10_state.md R21. -/
theorem slots_and_elements (wb : BitVec 5) (h : 15 ≤ wb.toNat ∧ wb.toNat ≤ 21) :
    (wb.toNat, numSlots wb, mainElements wb) ∈
      [(15, 30, 496), (16, 32, 512), (17, 34, 528), (18, 36, 544), (19, 38, 560), (20, 42, 592), (21, 50, 656)] := by
  revert wb; decide

/-- In a new stream every byte of the window reads as WINDOW_INIT says. -/
theorem startStream_windowByte (s : State) (wb : BitVec 5) (a : Nat) :
    (s.startStream wb).windowByte a = windowBackground s.params := rfl

theorem initialWritten_unspecified {p : Config.Params} (h : p.windowInit = .unspecified) (wb : BitVec 5) :
    initialWritten p wb = 0 := by rw [initialWritten, h]

theorem initialWritten_fill {p : Config.Params} {v : Byte} (h : p.windowInit = .fill v) (wb : BitVec 5) :
    initialWritten p wb = windowSize wb := by rw [initialWritten, h]

theorem windowBackground_unspecified {p : Config.Params} (h : p.windowInit = .unspecified) :
    windowBackground p = none := by rw [windowBackground, h]

theorem windowBackground_fill {p : Config.Params} {v : Byte} (h : p.windowInit = .fill v) :
    windowBackground p = some v := by rw [windowBackground, h]

/-- Settles O1: INIT answers the new stream of R141 in the window 15 to 21, and FAULTED outside it. -/
theorem initStartsStreamOrFaults : Obligations.InitStartsStreamOrFaults := by
  refine fun s wb hp => ⟨fun hwb => ?_, fun hwb => ⟨_, exec_init_bad hp hwb, rfl, rfl, rfl⟩⟩
  have hm : (wb.setWidth 5).toNat = wb.toNat := by
    rw [BitVec.toNat_setWidth, Nat.mod_eq_of_lt (by omega)]
  have hsize : windowSize (wb.setWidth 5) = 2 ^ wb.toNat := congrArg (2 ^ ·) hm
  have hslots := slots_and_elements (wb.setWidth 5) (hm.symm ▸ hwb)
  rw [hm] at hslots
  refine ⟨_, exec_init_good hp (by omega), rfl, hm, hsize, hslots, rfl, rfl, rfl, rfl, rfl, rfl, rfl, rfl, rfl, rfl,
    rfl, rfl, fun _ => ⟨rfl, rfl⟩, rfl, rfl, rfl, rfl, fun hu => ?_, fun v hv => ?_, rfl, rfl⟩
  · exact ⟨initialWritten_unspecified hu _,
      fun a => (startStream_windowByte s _ a).trans (windowBackground_unspecified hu)⟩
  · exact ⟨(initialWritten_fill hv _).trans hsize,
      fun a => (startStream_windowByte s _ a).trans (windowBackground_fill hv)⟩

/-! ### DECOMPRESS -/

theorem exec_decompress_ready {s : State} (hp : s.phase = .idle) (hr : s.stat.status = .ready) (outLen : Word)
    (chunk : List Byte) :
    exec (.decompress outLen chunk) s = .next (({ s with seq := none } : State).startFrame chunk outLen) :=
  complete_ok (by rw [M.bind_ok (betweenCommands_ok hp), M.bind_ok (EStateM.run_get s), if_neg (not_not.2 hr)]; rfl)

theorem operandWord_supplied {c : HostCommand} {k : Nat} {w : Word} (h : c.operands[k]? = some w) (draw : Nat) :
    operandWord c draw k = w := by
  rw [operandWord, h, Option.getD_some]

/-- A DECOMPRESS transaction takes as many bytes as its first operand word says, and its second is `out_len` (R71). -/
theorem decode_decompress {c : HostCommand} {inLen outLen : Word} (hc : c.word = 2) (hin : c.operands[0]? = some inLen)
    (hout : c.operands[1]? = some outLen) (draw : Nat) :
    decode (.cmd c draw) = .ok (.decompress outLen (commandBytes c draw inLen.toNat)) := by
  have hk : cmdKind c.word = .decompress := hc ▸ cmdKind_decompress
  simp only [decode, decodeCommand, hk, countedBytes, operandWord_supplied hin, operandWord_supplied hout]

/-- Settles O2: the start of a frame outside SEQ_RUN, and the bytes a DECOMPRESS takes. -/
theorem decompressStartsFrame : Obligations.DecompressStartsFrame := by
  refine ⟨fun s outLen chunk hp hr => exec_decompress_ready hp hr outLen chunk,
    fun c draw inLen outLen hc hin hout => ⟨_, decode_decompress hc hin hout draw, ?_, fun k hk hs => ?_⟩⟩
  · exact commandBytes_length c draw inLen.toNat
  · exact commandBytes_supplied hk hs

/-! ### READ_STATE -/

/-- A command word without reserved bits is made of its `op` and its `arg` (spec/30_encoding.md R70). -/
theorem eq_cmdWord {w : Word} (hlow : cmdReservedLow w = 0) (hhigh : cmdReservedHigh w = 0) :
    w = cmdWord (cmdOp w) (cmdArg w) := by
  have hw := append_cmdFields w
  rw [hlow, hhigh] at hw
  exact hw.symm

theorem decode_readState {c : HostCommand} (hop : cmdOp c.word = 4) (hlow : cmdReservedLow c.word = 0)
    (hhigh : cmdReservedHigh c.word = 0) (draw : Nat) :
    decode (.cmd c draw) = .ok (.readState (cmdArg c.word)) := by
  have hk : cmdKind c.word = .readState := by
    rw [eq_cmdWord hlow hhigh, hop, cmdKind_readState]
  simp only [decode, decodeCommand, hk]

/-- A reserved id reads as 0 (spec/10_state.md R39). -/
theorem register_reserved (s : State) {id : BitVec 8} (h : 0x12 ≤ id.toNat) : s.register id = 0 := by
  unfold State.register
  split
  case h_19 => rfl
  all_goals omega

/-- Settles O5: the reply is the one new thing, so the state is the same but for it. -/
theorem readStateReturnsRegister : Obligations.ReadStateReturnsRegister := by
  refine ⟨fun c draw hop hlow hhigh => decode_readState hop hlow hhigh draw,
    fun s id hp => ⟨?_, register_reserved s⟩⟩
  rw [exec_readState hp, State.reply, ← hp]

/-! ### What a command leaves alone -/

/-- The decoder, the parameters, the status, the run, the staged output, the pending commands and the counter of free
values. -/
def State.settled (s : State) : Decoder × Config.Params × StatusRegs × Nat × List Byte × List HostCommand × Nat :=
  (s.dec, s.params, s.stat, s.run, s.out, s.pending, s.draws)

/-- The per-command elements, the parameters and the pending commands: what an INIT leaves (log 14). -/
def State.perCommand (s : State) :
    Config.Params × List HostCommand × Cursor × List Byte × Word × Word × Nat × List Byte × Option SeqRegs :=
  (s.params, s.pending, s.cur, s.chunk, s.outLen, s.togo, s.run, s.out, s.seq)

/-- From `s` to `t` the decoder, the window and the rest of what is settled stay; the status stays or is FAULTED. -/
def DecoderAlone (s t : State) : Prop :=
  t.dec = s.dec ∧ t.params = s.params ∧ t.run = s.run ∧ t.out = s.out ∧ t.pending = s.pending ∧ t.draws = s.draws ∧
    (t.stat = s.stat ∨ t.stat.status = .faulted) ∧ ∀ a, t.windowByte a = s.windowByte a

theorem windowByte_congr {s t : State} (hd : t.dec = s.dec) (hp : t.params = s.params) (a : Nat) :
    t.windowByte a = s.windowByte a := by
  rw [State.windowByte, hd, hp, State.windowByte]

/-- What an operation leaves settled, its completion leaves alone: an error writes no more than the status. -/
theorem decoderAlone_of_complete {m : M Unit} {s t : State} (h : complete m s = .next t)
    (hm : Leaves State.settled m) : DecoderAlone s t := by
  have hs := hm s
  rcases complete_eq_next h with hr | ⟨e, p, u, hr, rfl⟩
  all_goals
    rw [hr] at hs
    simp only [Same, State.settled, M.finalState_ok, M.finalState_error, Prod.mk.injEq] at hs
    obtain ⟨hdec, hparams, hstat, hrun, hout, hpending, hdraws⟩ := hs
  · exact ⟨hdec, hparams, hrun, hout, hpending, hdraws, .inl hstat, windowByte_congr hdec hparams⟩
  · exact ⟨hdec, hparams, hrun, hout, hpending, hdraws, .inr rfl, windowByte_congr hdec hparams⟩

namespace Leaves

variable {γ : Type} {f : State → γ}

theorem betweenCommands : Leaves f betweenCommands := of_state guards_keep_state.1

theorem modify {g : State → State} (h : ∀ s, f (g s) = f s) : Leaves f (modify g : M PUnit) := Keeps.modify h

theorem reply (h : ∀ s r, f (s.reply r) = f s) (c : BitVec 4) (d : ReplyData) : Leaves f (reply c d) :=
  modify fun s => h s _

/-- A frame header, from its bounds check to the start of its frame, leaves what those updates leave. -/
theorem frame (hseq : ∀ s q, f { s with seq := q } = f s) (hgoto : ∀ s p, f (s.goto p) = f s)
    (hstart : ∀ s chunk n, f (s.startFrame chunk n) = f s) (n : Nat) (frameSize blockSize : SeqRegs → Nat) :
    Leaves f (do
      let q ← atFrameHdr
      frameBytes q n
      startFrameAt q n (frameSize q) (blockSize q)) :=
  (of_state guards_keep_state.2.2.2.2.2).bind fun _ => bind (.ite (throw _) (pure _)) fun _ =>
    (modify fun s => hseq s _).bind fun _ =>
      .ite (modify fun s => hgoto s _) (.ite (throw _) (modify fun s => hstart s _ _))

end Leaves

/-- The commands but INIT, and the frame headers. -/
def CommandOrFrame : Instr → Prop
  | .decompress _ _ | .seqRun _ _ | .readState _ | .cmdReserved _ | .frmStd _ | .frmExplicit => True
  | _ => False

theorem exec_decoderAlone {i : Instr} {s t : State} (hi : CommandOrFrame i) (h : exec i s = .next t) :
    DecoderAlone s t := by
  cases i with
  | decompress | seqRun =>
    exact decoderAlone_of_complete h <| Leaves.betweenCommands.bind fun _ => Keeps.get_bind fun s => by
      split <;> rfl
  | readState =>
    exact decoderAlone_of_complete h <| Leaves.betweenCommands.bind fun _ => Leaves.get.bind fun _ =>
      .reply (fun _ _ => rfl) _ _
  | cmdReserved =>
    exact decoderAlone_of_complete h <| Leaves.betweenCommands.bind fun _ => .reply (fun _ _ => rfl) _ _
  | frmStd | frmExplicit =>
    exact decoderAlone_of_complete h <| .frame (fun _ _ => rfl) (fun _ _ => rfl) (fun _ _ _ => rfl) _ _ _
  | _ => exact absurd hi id

/-- An INIT, with a good window size or a bad one, leaves the per-command elements (log 14). -/
theorem exec_init_perCommand {s t : State} {wb : BitVec 8} (h : exec (.init wb) s = .next t) :
    t.perCommand = s.perCommand :=
  Leaves.complete (fun _ _ _ => rfl) h <| Leaves.betweenCommands.bind fun _ =>
    .ite (Keeps.get_bind fun _ => rfl)
      (Leaves.bind (.modify fun _ => rfl) fun _ => .reply (fun _ _ => rfl) _ _)

/-- Settles O29: form by form, what the commands and the frame headers leave alone. -/
theorem commandsLeaveDecoderAlone : Obligations.CommandsLeaveDecoderAlone := by
  refine ⟨fun s t i hi h => exec_decoderAlone ?_ h, fun s t wb h => ?_⟩
  · rcases hi with ⟨n, bs, rfl⟩ | ⟨n, bs, rfl⟩ | ⟨id, rfl⟩ | ⟨w, rfl⟩ | ⟨h0, rfl⟩ | rfl <;> trivial
  · simpa only [State.perCommand, Prod.mk.injEq] using exec_init_perCommand h

end Sys2Proof.Machine
end

section
/-! SUPPORT. The rules between elements (spec/42_commands.md R143 to R152): the loop tests, the start of a run, the
frame's output, the E8 pass and the delivery. Each is the whole step of its phase. -/

namespace Sys2Proof.Machine

/-! ### The rule of a phase is the step -/

theorem step_mainLoop {s : State} (hp : s.phase = .mainLoop) : step s = complete mainLoop s := by
  simp only [step, fetch, hp]

theorem step_frameOutput {s : State} (hp : s.phase = .frameOutput) : step s = complete frameOutput s := by
  simp only [step, fetch, hp]

theorem step_e8Pass {s : State} (hp : s.phase = .e8Pass) : step s = complete e8Pass s := by
  simp only [step, fetch, hp]

theorem step_deliver {s : State} (hp : s.phase = .deliver) : step s = complete deliver s := by
  simp only [step, fetch, hp]

/-- A run with no byte left goes back to the loop tests (R144). -/
theorem step_runLoop_end {s : State} (hp : s.phase = .runLoop) (hr : s.run = 0) :
    step s = .next (s.goto .mainLoop) := by
  simp only [step, fetch, hp, fetchRun, hr, if_true]

/-- The cursor as a position, by its mode (spec/10_state.md R35). -/
theorem position_eq (c : Cursor) :
    c.position = if c.mode = .bit then 8 * c.segBase.toNat + c.c.toNat else 8 * c.inPos.toNat := by
  unfold Cursor.position
  cases c.mode <;> rfl

/-- A rule that raises in the state it starts in takes the error at the cursor. -/
theorem takesError_of_raise {m : M Unit} {s : State} {e : Err} (hm : m.run s = .error (.raise e none) s) :
    TakesError (complete m s) s e
      (if s.cur.mode = .bit then 8 * s.cur.segBase.toNat + s.cur.c.toNat else 8 * s.cur.inPos.toNat) := by
  rw [complete_raise hm, ← position_eq]
  rfl

/-! ### The loop tests (R143) -/

theorem mainLoop_end {s : State} (ht : s.togo = 0) : mainLoop.run s = .ok () (s.goto .frameOutput) := by
  rw [mainLoop, M.bind_ok (EStateM.run_get s), if_pos ht]
  rfl

theorem mainLoop_header {s : State} (ht : s.togo ≠ 0) (hb : s.dec.blockRemaining = 0) :
    mainLoop.run s = startBlockHeader.run s := by
  rw [mainLoop, M.bind_ok (EStateM.run_get s), if_neg ht, if_pos hb]

theorem mainLoop_run {s : State} (ht : s.togo ≠ 0) (hb : s.dec.blockRemaining ≠ 0) :
    mainLoop.run s = startRun.run s := by
  rw [mainLoop, M.bind_ok (EStateM.run_get s), if_neg ht, if_neg hb]

/-- A pad byte is due after an UNCOMPRESSED block of odd length (spec/43_block_headers.md R171). -/
theorem padDue_iff {s : State} : s.padDue = true ↔ s.dec.blockType = 3 ∧ s.dec.blockLength.toNat % 2 = 1 := by
  simp [State.padDue]

theorem startBlockHeader_pad {s : State} (hp : s.padDue = true) :
    startBlockHeader.run s = .ok () (s.goto .uncPad) := by
  rw [startBlockHeader, M.bind_ok (EStateM.run_get s), if_pos hp]
  rfl

/-- After an UNCOMPRESSED block without a pad byte a new bit segment starts (log 22). -/
theorem startBlockHeader_segment {s : State} (hp : ¬ s.padDue = true) (ht : s.dec.blockType = 3) :
    startBlockHeader.run s = .ok () (({ s with cur := s.cur.initBits } : State).goto .blockHdr) := by
  rw [startBlockHeader, M.bind_ok (EStateM.run_get s), if_neg hp, if_pos ht]
  rfl

theorem startBlockHeader_coded {s : State} (hp : ¬ s.padDue = true) (ht : s.dec.blockType ≠ 3) :
    startBlockHeader.run s = .ok () (s.goto .blockHdr) := by
  rw [startBlockHeader, M.bind_ok (EStateM.run_get s), if_neg hp, if_neg ht]
  rfl

/-- Settles O34: the loop tests in their order, and the three ways to a block header. -/
theorem mainLoopChoosesNext : Obligations.MainLoopChoosesNext := by
  intro s hp
  rw [step_mainLoop hp]
  refine ⟨fun ht => complete_ok (mainLoop_end ht), fun ht hb => ⟨fun h3 => ?_, fun h3 hodd => ?_, fun h3 heven => ?_⟩⟩
  · have hpad : ¬ s.padDue = true := fun h => h3 (padDue_iff.1 h).1
    exact complete_ok ((mainLoop_header ht hb).trans (startBlockHeader_coded hpad h3))
  · exact complete_ok ((mainLoop_header ht hb).trans (startBlockHeader_pad (padDue_iff.2 ⟨h3, hodd⟩)))
  · have hpad : ¬ s.padDue = true := fun h => by have := (padDue_iff.1 h).2; omega
    exact complete_ok ((mainLoop_header ht hb).trans (startBlockHeader_segment hpad h3))

/-! ### The start of a run (R144) -/

/-- A part of a word taken off it, as numbers. -/
theorem sub_ofNat_of_le {w n : Nat} {x : BitVec w} (h : n ≤ x.toNat) :
    x - BitVec.ofNat w n = BitVec.ofNat w (x.toNat - n) := by
  have hx := x.isLt
  rw [← BitVec.ofNat_sub_ofNat_of_le x.toNat n (by omega) h, BitVec.ofNat_toNat, BitVec.setWidth_eq]

/-- The run's size off `togo` and `block_remaining` is below both. -/
theorem takeRun_eq (s : State) :
    s.takeRun =
      { s with
        run := min s.dec.blockRemaining.toNat s.togo.toNat
        togo := BitVec.ofNat 32 (s.togo.toNat - min s.dec.blockRemaining.toNat s.togo.toNat)
        dec :=
          { s.dec with
            blockRemaining :=
              BitVec.ofNat 24 (s.dec.blockRemaining.toNat - min s.dec.blockRemaining.toNat s.togo.toNat)
            windowPos := BitVec.ofNat 22 (s.dec.windowPos.toNat % windowSize s.dec.wb) } } := by
  rw [← sub_ofNat_of_le (Nat.min_le_left _ _), ← sub_ofNat_of_le (Nat.min_le_right _ _)]
  rfl

/-- A window of at most 2^21 bytes has addresses of 22 bits. -/
theorem windowPos_mod_lt {s : State} (hw : s.dec.wb.toNat ≤ 21) :
    s.dec.windowPos.toNat % windowSize s.dec.wb < 2 ^ 22 := by
  have hsize : windowSize s.dec.wb ≤ 2 ^ 21 := Nat.pow_le_pow_right (by omega) hw
  have hlt := Nat.mod_lt s.dec.windowPos.toNat (windowSize_pos s.dec.wb)
  omega

theorem startRun_fits {s : State}
    (h : s.takeRun.dec.windowPos.toNat + s.takeRun.run ≤ windowSize s.takeRun.dec.wb) :
    startRun.run s = .ok () (s.takeRun.goto .runLoop) := by
  rw [startRun, M.bind_ok (EStateM.run_modify _ s), M.bind_ok (EStateM.run_get _), if_neg (not_lt.2 h)]
  rfl

theorem startRun_crosses {s : State}
    (h : windowSize s.takeRun.dec.wb < s.takeRun.dec.windowPos.toNat + s.takeRun.run) :
    startRun.run s = .error (.raise (.windowOverrun .runCrosses) none) s.takeRun := by
  rw [startRun, M.bind_ok (EStateM.run_modify _ s), M.bind_ok (EStateM.run_get _), if_pos h]
  rfl

/-- Settles O35: the state a run starts or overruns in is `takeRun`. -/
theorem runStartsOrOverruns : Obligations.RunStartsOrOverruns := by
  refine ⟨fun s u run hp ht hb hw hrun hu => ?_, fun s => step_runLoop_end⟩
  have htake : s.takeRun = u := by rw [takeRun_eq, hu, hrun]
  have hpos := takeRun_windowPos s (windowPos_mod_lt hw)
  have hsize : run = s.takeRun.run := hrun
  rw [step_mainLoop hp, ← hpos, hsize, ← htake]
  refine ⟨fun hfit => complete_ok ((mainLoop_run ht hb).trans (startRun_fits hfit)), fun hcross => ?_⟩
  exact ⟨_, complete_raise ((mainLoop_run ht hb).trans (startRun_crosses hcross)), rfl, rfl, rfl, rfl⟩

/-! ### FrameOutput (R146) -/

/-- The address after the output's last byte (R146). -/
def State.outputEnd (s : State) : Nat := if s.dec.windowPos = 0 then windowSize s.dec.wb else s.dec.windowPos.toNat

theorem outputEnd_eq (s : State) :
    (if s.dec.windowPos ≠ 0 then s.dec.windowPos.toNat else windowSize s.dec.wb) = s.outputEnd := ite_not _ _ _

theorem frameOutput_short {s : State} (h : s.outputEnd < s.outLen.toNat) :
    frameOutput.run s = .error (.raise (.windowOverrun .notContiguous) none) s := by
  rw [frameOutput, M.bind_ok (EStateM.run_get s)]
  simp only [outputEnd_eq]
  rw [if_pos h]
  rfl

theorem frameOutput_ok {s : State} {bytes : List Byte} (h : s.outLen.toNat ≤ s.outputEnd)
    (hb : (readBytes (s.outputEnd - s.outLen.toNat) s.outLen.toNat).run s = .ok bytes s) :
    frameOutput.run s = .ok () (({ s with out := bytes } : State).goto .e8Pass) := by
  rw [frameOutput, M.bind_ok (EStateM.run_get s)]
  simp only [outputEnd_eq]
  rw [if_neg (not_lt.2 h)]
  exact (M.bind_ok hb).trans rfl

/-- Settles O37: the bytes before the output's end, or the error where there are not that many. -/
theorem frameOutputIsWindowTail : Obligations.FrameOutputIsWindowTail := by
  intro s stop hp hstop
  change stop = s.outputEnd at hstop
  rw [step_frameOutput hp, hstop]
  refine ⟨fun hlen hend hthere => ?_, fun hshort => takesError_of_raise (frameOutput_short hshort)⟩
  obtain ⟨bytes, hrun, hcount, hbytes⟩ := readBytes_ok (s := s) (a := s.outputEnd - s.outLen.toNat)
    (n := s.outLen.toNat) (by omega) (fun i hi => hthere _ (by omega) (by omega))
  exact ⟨bytes, complete_ok (frameOutput_ok hlen hrun), hcount, hbytes⟩

/-! ### The E8 pass (R149 to R151) -/

theorem e8Condition_iff {s : State} :
    s.e8Condition = true ↔ s.dec.framesRead.toNat < 32768 ∧ s.dec.e8FileSize ≠ 0 := by
  simp [State.e8Condition]

theorem e8CountOnly_iff {s : State} : s.e8CountOnly = true ↔ s.outLen.toNat ≤ 6 ∨ s.dec.e8Started = false := by
  simp [State.e8CountOnly]

theorem e8Pass_off {s : State} (hc : ¬ s.e8Condition = true) : e8Pass.run s = .ok () (s.goto .deliver) := by
  rw [e8Pass, M.bind_ok (EStateM.run_get s), if_neg hc]
  rfl

section e8Pass

variable {s : State} (hc : s.e8Condition = true)
include hc

theorem e8Pass_count (ho : s.e8CountOnly = true) : e8Pass.run s = .ok () (s.advanceE8.goto .deliver) := by
  rw [e8Pass, M.bind_ok (EStateM.run_get s), if_pos hc, if_pos ho]
  rfl

theorem e8Pass_reject (ho : ¬ s.e8CountOnly = true) (hm : s.params.e8Mode = .reject) :
    e8Pass.run s = .error (.raise .e8Unsupported none) s := by
  rw [e8Pass, M.bind_ok (EStateM.run_get s), if_pos hc, if_neg ho, if_pos hm]
  rfl

theorem e8Pass_translate (ho : ¬ s.e8CountOnly = true) (hm : s.params.e8Mode ≠ .reject) :
    e8Pass.run s =
      .ok ()
        ((({ s with out := e8Translate s.dec.e8CurPos s.dec.e8FileSize s.out } : State).advanceE8).goto .deliver) := by
  rw [e8Pass, M.bind_ok (EStateM.run_get s), if_pos hc, if_neg ho, if_neg hm]
  rfl

end e8Pass

/-- Settles O38: the condition, then the frames that are only counted, then the mode. -/
theorem e8PassFollowsCondition : Obligations.E8PassFollowsCondition := by
  intro s hp
  rw [step_e8Pass hp]
  refine ⟨fun hoff => complete_ok (e8Pass_off fun hc => ?_), fun hframes hsize => ?_⟩
  · obtain ⟨hframes, hsize⟩ := e8Condition_iff.1 hc
    exact hoff.elim (by omega) hsize
  have hc : s.e8Condition = true := e8Condition_iff.2 ⟨hframes, hsize⟩
  have hfull (hlen : 6 < s.outLen.toNat) (hst : s.dec.e8Started = true) : ¬ s.e8CountOnly = true := fun ho =>
    (e8CountOnly_iff.1 ho).elim (by omega) (by simp [hst])
  refine ⟨fun ho => complete_ok (e8Pass_count hc (e8CountOnly_iff.2 ho)), fun hlen hst hm => ?_, fun hlen hst hm => ?_⟩
  · exact complete_ok (e8Pass_translate hc (hfull hlen hst) (by simp [hm]))
  · exact takesError_of_raise (e8Pass_reject hc (hfull hlen hst) hm)

/-! ### The end of a frame (R152, R148) -/

theorem deliver_alone {s : State} (hq : s.seq = none) :
    deliver.run s = .ok () (s.countFrame.reply { status := 0, data := .output s.out }) := by
  rw [deliver, M.bind_ok (EStateM.run_modify _ s), M.bind_ok (EStateM.run_get _), State.countFrame_seq, hq]
  rfl

theorem deliver_inSeq {s : State} {q : SeqRegs} (hq : s.seq = some q) :
    deliver.run s =
      .ok () (({ s.countFrame with
        seq := some { q with out := q.out ++ s.out, pos := q.pos + s.chunk.length } } : State).goto .seqLoop) := by
  rw [deliver, M.bind_ok (EStateM.run_modify _ s), M.bind_ok (EStateM.run_get _), State.countFrame_seq, hq]
  rfl

/-- Settles O40: the frame is counted, and its output delivered alone or to the SEQ_RUN it is in. -/
theorem frameIsCountedAndDelivered : Obligations.FrameIsCountedAndDelivered := by
  intro s hp
  rw [step_deliver hp]
  exact ⟨fun hq => complete_ok (deliver_alone hq), fun q hq => complete_ok (deliver_inSeq hq)⟩

end Sys2Proof.Machine
end

section
/-! SUPPORT. The E8 translation (spec/42_commands.md R150): the operand and its replacement as numbers, the two turns of
the loop, and what any turn leaves as it is. -/

namespace Sys2Proof.Machine

/-! ### Operands -/

/-- Four bytes as a number, least significant first. -/
theorem append_toNat (b0 b1 b2 b3 : Byte) :
    (b3 ++ b2 ++ b1 ++ b0 : BitVec 32).toNat =
      b0.toNat + 256 * b1.toNat + 65536 * b2.toNat + 16777216 * b3.toNat := by
  have h (w : Nat) (x : BitVec w) (y : Byte) : (x ++ y).toNat = 256 * x.toNat + y.toNat := by
    rw [BitVec.toNat_append, ← Nat.shiftLeft_add_eq_or_of_lt y.isLt, Nat.shiftLeft_eq, Nat.mul_comm]
  rw [h, h, h]
  omega

/-- The operand as a signed 32-bit number (spec/00_scope.md R8). -/
theorem s32Bytes_eq (b0 b1 b2 b3 : Byte) {n : Nat}
    (hn : n = b0.toNat + 256 * b1.toNat + 65536 * b2.toNat + 16777216 * b3.toNat) :
    s32Bytes b0 b1 b2 b3 = if n < 2 ^ 31 then (n : Int) else (n : Int) - 2 ^ 32 := by
  rw [s32Bytes, BitVec.toInt_eq_toNat_cond, append_toNat, ← hn]
  split <;> split <;> omega

/-- The four bytes of `u32(x)` are `x` modulo 2^32. -/
theorem u32Bytes_spec (x : Int) : ∃ c0 c1 c2 c3 : Byte, u32Bytes x = [c0, c1, c2, c3] ∧
    ((c0.toNat + 256 * c1.toNat + 65536 * c2.toNat + 16777216 * c3.toNat : Nat) : Int) = x % 2 ^ 32 := by
  refine ⟨_, _, _, _, rfl, ?_⟩
  have hw : ((BitVec.ofInt 32 x).toNat : Int) = x % 2 ^ 32 := by
    rw [BitVec.toNat_ofInt]
    omega
  have hlt := (BitVec.ofInt 32 x).isLt
  simp only [BitVec.extractLsb'_toNat, Nat.shiftRight_eq_div_pow, ← hw]
  omega

theorem e8Operand_eq {out : List Byte} {i : Nat} {b0 b1 b2 b3 : Byte} (h0 : out[i + 1]? = some b0)
    (h1 : out[i + 2]? = some b1) (h2 : out[i + 3]? = some b2) (h3 : out[i + 4]? = some b3) :
    e8Operand out i = s32Bytes b0 b1 b2 b3 := by
  simp only [e8Operand, List.getD_eq_getElem?_getD, h0, h1, h2, h3, Option.getD_some]

/-! ### The replaced operand -/

theorem u32Bytes_length (x : Int) : (u32Bytes x).length = 4 := rfl

/-- The four bytes after index i are those of the operand, every other byte stays. -/
theorem e8Put_getElem? {out : List Byte} {i : Nat} (h : i + 5 ≤ out.length) (rel : Int) (k : Nat) :
    (e8Put out i rel)[k]? = if i < k ∧ k < i + 5 then (u32Bytes rel)[k - (i + 1)]? else out[k]? := by
  have htake : (out.take (i + 1)).length = i + 1 := List.length_take_of_le (by omega)
  have hmid : (out.take (i + 1) ++ u32Bytes rel).length = i + 5 := by
    rw [List.length_append, htake, u32Bytes_length]
  unfold e8Put
  by_cases hlo : k ≤ i
  · rw [List.getElem?_append_left (by omega), List.getElem?_append_left (by omega),
      List.getElem?_take_of_lt (by omega), if_neg (by omega)]
  by_cases hhi : k < i + 5
  · rw [List.getElem?_append_left (by omega), List.getElem?_append_right (by omega), htake, if_pos (by omega)]
  · rw [List.getElem?_append_right (by omega), hmid, List.getElem?_drop, if_neg (by omega)]
    congr 1
    omega

theorem e8Put_length {out : List Byte} {i : Nat} (h : i + 5 ≤ out.length) (rel : Int) :
    (e8Put out i rel).length = out.length := by
  simp only [e8Put, List.length_append, List.length_take, List.length_drop, u32Bytes_length]
  omega

/-- The replaced operand, byte by byte. -/
theorem e8Put_bytes {out : List Byte} {i : Nat} (h : i + 5 ≤ out.length) {rel : Int} {c0 c1 c2 c3 : Byte}
    (hc : u32Bytes rel = [c0, c1, c2, c3]) (k : Nat) :
    (e8Put out i rel)[k]? =
      if k = i + 1 then some c0 else if k = i + 2 then some c1 else if k = i + 3 then some c2
      else if k = i + 4 then some c3 else out[k]? := by
  rw [e8Put_getElem? h, hc]
  by_cases hk : i < k ∧ k < i + 5
  · obtain rfl | rfl | rfl | rfl : k = i + 1 ∨ k = i + 2 ∨ k = i + 3 ∨ k = i + 4 := by omega
    all_goals simp [Nat.add_sub_add_left]
  · rw [if_neg hk, if_neg (by omega), if_neg (by omega), if_neg (by omega), if_neg (by omega)]

/-! ### One turn of the loop -/

section turn

variable {fs cur : Int} {fuel i : Nat} {out : List Byte}

/-- From `out_len - 10` on nothing changes. -/
theorem e8Loop_end (h : out.length ≤ i + 10) : e8Loop fs fuel i cur out = out := by
  cases fuel with
  | zero => rfl
  | succ fuel => exact if_neg (by omega)

theorem e8Loop_other (hi : i + 10 < out.length) (hb : out.getD i 0 ≠ 0xE8) :
    e8Loop fs (fuel + 1) i cur out = e8Loop fs fuel (i + 1) (cur + 1) out :=
  (if_pos hi).trans (if_pos hb)

theorem e8Loop_e8 (hi : i + 10 < out.length) (hb : out.getD i 0 = 0xE8) :
    e8Loop fs (fuel + 1) i cur out =
      e8Loop fs fuel (i + 5) (cur + 5) ((e8Rel (e8Operand out i) cur fs).elim out (e8Put out i)) := by
  refine (if_pos hi).trans <| (if_neg (not_not.2 hb)).trans ?_
  cases e8Rel (e8Operand out i) cur fs <;> rfl

theorem e8Rel_out {a : Int} (h : ¬ (-cur ≤ a ∧ a < fs)) : e8Rel a cur fs = none := if_neg h

theorem e8Rel_in {a : Int} (h : -cur ≤ a ∧ a < fs) :
    e8Rel a cur fs = some (if 0 ≤ a then a - cur else a + fs) := if_pos h

/-- An 0xE8 byte whose operand is out of range is passed over with its operand. -/
theorem e8Loop_outOfRange (hi : i + 10 < out.length) (hb : out.getD i 0 = 0xE8)
    (ha : ¬ (-cur ≤ e8Operand out i ∧ e8Operand out i < fs)) :
    e8Loop fs (fuel + 1) i cur out = e8Loop fs fuel (i + 5) (cur + 5) out := by
  rw [e8Loop_e8 hi hb, e8Rel_out ha]
  rfl

/-- An operand in range is replaced. -/
theorem e8Loop_inRange (hi : i + 10 < out.length) (hb : out.getD i 0 = 0xE8)
    (ha : -cur ≤ e8Operand out i ∧ e8Operand out i < fs) :
    e8Loop fs (fuel + 1) i cur out =
      e8Loop fs fuel (i + 5) (cur + 5)
        (e8Put out i (if 0 ≤ e8Operand out i then e8Operand out i - cur else e8Operand out i + fs)) := by
  rw [e8Loop_e8 hi hb, e8Rel_in ha]
  rfl

/-- What any turn can do: it moves on by at least one byte, and changes nothing but the four bytes after an 0xE8. -/
theorem e8Loop_turn (hi : i + 10 < out.length) :
    ∃ (j : Nat) (next : Int) (out' : List Byte), i < j ∧ out'.length = out.length ∧
      (∀ k, i + 5 ≤ k → out'[k]? = out[k]?) ∧ (out.getD i 0 ≠ 0xE8 → out' = out) ∧
      ∀ fuel, e8Loop fs (fuel + 1) i cur out = e8Loop fs fuel j next out' := by
  by_cases hb : out.getD i 0 = 0xE8
  · refine ⟨i + 5, cur + 5, _, by omega, ?_, fun k hk => ?_, (absurd hb ·), fun fuel => e8Loop_e8 hi hb⟩
    all_goals cases e8Rel (e8Operand out i) cur fs with
      | none => rfl
      | some rel => ?_
    · exact e8Put_length (by omega) rel
    · exact (e8Put_getElem? (by omega) rel k).trans (if_neg (by omega))
  · exact ⟨i + 1, cur + 1, out, by omega, rfl, fun _ _ => rfl, fun _ => rfl, fun fuel => e8Loop_other hi hb⟩

end turn

/-! ### The whole loop -/

theorem e8Loop_length (fs : Int) : ∀ (fuel i : Nat) (cur : Int) (out : List Byte),
    (e8Loop fs fuel i cur out).length = out.length
  | 0, _, _, _ => rfl
  | fuel + 1, i, cur, out => by
    by_cases hi : i + 10 < out.length
    · obtain ⟨j, next, out', -, hlen, -, -, hstep⟩ := e8Loop_turn (fs := fs) (cur := cur) hi
      rw [hstep, e8Loop_length fs fuel, hlen]
    · rw [e8Loop_end (not_lt.1 hi)]

/-- The last 6 bytes are never an operand's. -/
theorem e8Loop_tail (fs : Int) : ∀ (fuel i : Nat) (cur : Int) (out : List Byte) (k : Nat), out.length ≤ k + 6 →
    (e8Loop fs fuel i cur out)[k]? = out[k]?
  | 0, _, _, _, _, _ => rfl
  | fuel + 1, i, cur, out, k, hk => by
    by_cases hi : i + 10 < out.length
    · obtain ⟨j, next, out', -, hlen, hrest, -, hstep⟩ := e8Loop_turn (fs := fs) (cur := cur) hi
      rw [hstep, e8Loop_tail fs fuel j next out' k (by omega), hrest k (by omega)]
    · rw [e8Loop_end (not_lt.1 hi)]

/-- Without an 0xE8 byte there is no operand. -/
theorem e8Loop_noE8 (fs : Int) {out : List Byte} (hout : ∀ b ∈ out, b ≠ 0xE8) : ∀ (fuel i : Nat) (cur : Int),
    e8Loop fs fuel i cur out = out
  | 0, _, _ => rfl
  | fuel + 1, i, cur => by
    by_cases hi : i + 10 < out.length
    · obtain ⟨j, next, out', -, -, -, hsame, hstep⟩ := e8Loop_turn (fs := fs) (cur := cur) hi
      have hb : out.getD i 0 ≠ 0xE8 := by
        rw [List.getD_eq_getElem (hn := by omega)]
        exact hout _ (List.getElem_mem _)
      rw [hstep, hsame hb]
      exact e8Loop_noE8 fs hout fuel j next
    · exact e8Loop_end (not_lt.1 hi)

/-- As many turns as there are bytes from index i on are enough. -/
theorem e8Loop_extra (fs : Int) (extra : Nat) : ∀ (fuel i : Nat) (cur : Int) (out : List Byte),
    out.length ≤ i + fuel → e8Loop fs (fuel + extra) i cur out = e8Loop fs fuel i cur out
  | 0, i, cur, out, h => e8Loop_end (by omega)
  | fuel + 1, i, cur, out, h => by
    by_cases hi : i + 10 < out.length
    · obtain ⟨j, next, out', hj, hlen, -, -, hstep⟩ := e8Loop_turn (fs := fs) (cur := cur) hi
      rw [Nat.add_right_comm, hstep, hstep, e8Loop_extra fs extra fuel j next out' (by omega)]
    · rw [e8Loop_end (not_lt.1 hi), e8Loop_end (not_lt.1 hi)]

/-- Settles O39: one turn by its three cases, then the loop by induction on its turns. -/
theorem e8TranslationBounds : Obligations.E8TranslationBounds := by
  refine ⟨fun fs cur fuel i out => ⟨e8Loop_end, fun b hi hb hne => ?_, ?_⟩, fun cur fs out => ?_⟩
  · exact e8Loop_other hi (by rwa [List.getD_eq_getElem?_getD, hb, Option.getD_some])
  · intro b0 b1 b2 b3 n a hi hb h0 h1 h2 h3 hn ha
    have hop : a = e8Operand out i := by rw [ha, ← s32Bytes_eq b0 b1 b2 b3 hn, e8Operand_eq h0 h1 h2 h3]
    have hE8 : out.getD i 0 = 0xE8 := by rw [List.getD_eq_getElem?_getD, hb, Option.getD_some]
    rw [hop]
    refine ⟨e8Loop_outOfRange hi hE8, fun hlo hhi => ?_⟩
    obtain ⟨c0, c1, c2, c3, hc, hsum⟩ :=
      u32Bytes_spec (if 0 ≤ e8Operand out i then e8Operand out i - cur else e8Operand out i + fs)
    exact ⟨c0, c1, c2, c3, _, hsum, e8Put_length (by omega) _, e8Put_bytes (by omega) hc,
      e8Loop_inRange hi hE8 ⟨hlo, hhi⟩⟩
  · exact ⟨e8Loop_length _ _ _ _ _, fun h => e8Loop_end (by omega), fun h => e8Loop_noE8 _ h _ _ _,
      fun k => e8Loop_tail _ _ _ _ _ k, fun extra => e8Loop_extra _ extra _ _ _ _ (by omega)⟩

end Sys2Proof.Machine
end

section
/-! SUPPORT. Commands are atomic for the host (spec/42_commands.md R140): an operation is quiet where it leaves the
host's port and ends no command; a step is quiet, or it returns the one result that ends its command. -/

namespace Sys2Proof.Machine

variable {α β : Type}

/-! ### The relations -/

/-- From `s` to `t` no command is taken, no result returned, and no command ended. -/
def Quiet (s t : State) : Prop :=
  t.pending = s.pending ∧ t.replies = s.replies ∧ (t.phase = .idle → s.phase = .idle)

/-- From `s` to `t` one result is returned and its command ends; a result other than OK carries no data. -/
def Answers (s t : State) : Prop :=
  t.pending = s.pending ∧ t.phase = .idle ∧ ∃ r, t.replies = s.replies ++ [r] ∧ (r.status ≠ 0 → r.data = .none)

/-- From `s` to `t` a command in progress goes on quietly, or it ends. -/
abbrev GoesOnOrEnds (s t : State) : Prop := Quiet s t ∨ Answers s t

/-- The operation is quiet, however it ends. -/
abbrev StaysQuiet (m : M α) : Prop := Keeps Quiet m

/-- From `s` the operation is quiet, or it answers once, at its end. -/
def AnswersOnce (m : M α) (s : State) : Prop :=
  match m.run s with
  | .ok _ t => GoesOnOrEnds s t
  | .error _ t => Quiet s t

namespace Quiet

theorem refl (s : State) : Quiet s s := ⟨rfl, rfl, id⟩

theorem trans (a b c : State) : Quiet a b → Quiet b c → Quiet a c
  | ⟨hp, hr, hi⟩, ⟨hp', hr', hi'⟩ => ⟨hp'.trans hp, hr'.trans hr, hi ∘ hi'⟩

theorem of_onlyCur {s t : State} (h : OnlyCur s t) : Quiet s t := by
  rw [h]
  exact refl s

theorem answers {s t u : State} : Quiet s t → Answers t u → Answers s u
  | ⟨hp, hr, _⟩, ⟨hp', hi', r, hr', hd⟩ => ⟨hp'.trans hp, hi', r, hr ▸ hr', hd⟩

/-- What follows a quiet operation ends the command if the whole does. -/
theorem then_step {s t u : State} (h : Quiet s t) : GoesOnOrEnds t u → GoesOnOrEnds s u :=
  Or.imp (trans s t u h) h.answers

/-! An update that leaves the port and the phase is quiet by `⟨rfl, rfl, id⟩`; the others go to a phase that is not
idle. -/

theorem goto (s : State) {p : Phase} (hp : p ≠ .idle) : Quiet s (s.goto p) := ⟨rfl, rfl, fun h => absurd h hp⟩

theorem spendRun (s : State) (n : Nat) : Quiet s (s.spendRun n) := ⟨rfl, rfl, fun h => nomatch h⟩

theorem startFrame (s : State) (chunk : List Byte) (n : Word) : Quiet s (s.startFrame chunk n) := by
  refine ⟨rfl, rfl, fun h => ?_⟩
  rw [State.startFrame_phase] at h
  split at h <;> cases h

theorem writeLens (s : State) (r : Record) (x n : Nat) (v : BitVec 5) : Quiet s (s.writeLens r x n v) :=
  ⟨State.writeLens_pending s r x n v, State.writeLens_replies s r x n v, fun h => nomatch h⟩

end Quiet

theorem Answers.reply (s : State) {c : BitVec 4} {d : ReplyData} (h : c ≠ 0 → d = .none) :
    Answers s (s.reply { status := c, data := d }) := ⟨rfl, rfl, _, rfl, h⟩

theorem Answers.enterFault (s : State) (e : Err) (p : Option Nat) : Answers s (s.enterFault e p) :=
  ⟨rfl, rfl, _, rfl, fun _ => rfl⟩

namespace StaysQuiet

/-! ### Quiet operations -/

theorem bind {m : M α} {f : α → M β} (hm : StaysQuiet m) (hf : ∀ a, StaysQuiet (f a)) : StaysQuiet (m >>= f) :=
  Keeps.bind Quiet.trans hm hf

theorem pure (a : α) : StaysQuiet (pure a : M α) := Keeps.pure Quiet.refl a

theorem throw (e : Stop) : StaysQuiet (throw e : M α) := Keeps.throw Quiet.refl e

/-- What would follow a raise never runs. -/
theorem raise_bind (e : Err) (f : α → M β) : StaysQuiet (raise e >>= f) := fun s => .refl s

theorem get : StaysQuiet (get : M State) := Keeps.get Quiet.refl

theorem modify {f : State → State} (h : ∀ s, Quiet s (f s)) : StaysQuiet (modify f : M PUnit) := Keeps.modify h

theorem goto {p : Phase} (hp : p ≠ .idle) : StaysQuiet (goto p) := modify fun s => .goto s hp

theorem of_onlyCur {m : M α} (h : Keeps OnlyCur m) : StaysQuiet m := fun s => .of_onlyCur (h s)

theorem of_state {m : M α} (h : ∀ s, M.finalState (m.run s) = s) : StaysQuiet m := fun s => by
  rw [h s]
  exact .refl s

/-- A read of the state, an update of what was read, and what follows. -/
theorem set_bind {s u : State} {m : M β} (hu : Quiet s u) (hm : StaysQuiet m) :
    Quiet s (M.finalState ((set u >>= fun _ => m : M β).run s)) :=
  .trans _ _ _ hu (hm u)

theorem betweenCommands : StaysQuiet betweenCommands := of_state guards_keep_state.1

theorem atPhase (p : Phase) : StaysQuiet (atPhase p) := of_state (guards_keep_state.2.1 p)

theorem inRun (ok : BitVec 3 → Bool) : StaysQuiet (inRun ok) := of_state (guards_keep_state.2.2.1 ok)

theorem inRecord : StaysQuiet inRecord := of_state guards_keep_state.2.2.2.1

theorem atPreLens : StaysQuiet atPreLens := of_state guards_keep_state.2.2.2.2.1

theorem atFrameHdr : StaysQuiet atFrameHdr := of_state guards_keep_state.2.2.2.2.2

theorem readBits (n : Nat) : StaysQuiet (readBits n) := of_onlyCur (readBits_keeps n)

/-! ### The window and the matches -/

theorem winWrite (v : Byte) : StaysQuiet (winWrite v) := Keeps.get_bind fun s => by
  split
  · exact .refl s
  · exact ⟨rfl, rfl, id⟩

theorem copyBytes (offset : Nat) : ∀ n, StaysQuiet (copyBytes offset n)
  | 0 => pure _
  | n + 1 => get.bind fun _ => (of_state fun _ => winRead_state _).bind fun _ => (winWrite _).bind fun _ =>
    copyBytes offset n

theorem finishMatch (length : Nat) (offset : Word) : StaysQuiet (finishMatch length offset) :=
  (of_state (checkMatch_state _ _)).bind fun _ => (copyBytes _ _).bind fun _ => modify fun s => .spendRun s _

theorem matchR0 (length : Nat) : StaysQuiet (matchR0 length) := get.bind fun _ => finishMatch _ _

theorem matchR1 (length : Nat) : StaysQuiet (matchR1 length) :=
  Keeps.get_bind fun _ => set_bind ⟨rfl, rfl, id⟩ (finishMatch _ _)

theorem matchR2 (length : Nat) : StaysQuiet (matchR2 length) :=
  Keeps.get_bind fun _ => set_bind ⟨rfl, rfl, id⟩ (finishMatch _ _)

theorem matchNew (length offset : Nat) : StaysQuiet (matchNew length offset) :=
  bind (modify fun _ => ⟨rfl, rfl, id⟩) fun _ => finishMatch _ _

theorem matchVerb (slot length : Nat) : StaysQuiet (matchVerb slot length) :=
  (readBits _).bind fun _ => matchNew _ _

theorem matchAlgn (slot length : Nat) : StaysQuiet (matchAlgn slot length) := by
  rw [matchAlgn_eq]
  exact .ite ((readBits _).bind fun _ => goto (by simp)) (.ite (goto (by simp)) (matchVerb _ _))

theorem offsetStep (slot : BitVec 6) (length : Nat) : StaysQuiet (offsetStep slot length) :=
  get.bind fun _ =>
    .ite (matchR0 _) <| .ite (matchR1 _) <| .ite (matchR2 _) <| .ite (matchNew _ _) <|
      .ite (matchVerb _ _) <| .ite (matchAlgn _ _) (throw _)

/-- A match element: its footer is awaited, or its offset step is taken (spec/44_symbols.md R203). -/
theorem matchElement (ok : BitVec 3 → Bool) (slot : BitVec 6) (lh : BitVec 3) {next : Nat → M Unit}
    (h : ∀ n, StaysQuiet (next n)) : StaysQuiet (Machine.inRun ok >>= fun _ => afterHeader slot lh next) :=
  (inRun ok).bind fun _ => .ite (goto (by simp)) (h _)

/-! ### Headers and length fields -/

theorem frame (q : SeqRegs) (n frameSize blockSize : Nat) :
    StaysQuiet (frameBytes q n >>= fun _ => startFrameAt q n frameSize blockSize) :=
  bind (.ite (throw _) (pure _)) fun _ => bind (modify fun _ => ⟨rfl, rfl, id⟩) fun _ =>
    .ite (goto (by decide)) (.ite (throw _) (modify fun s => .startFrame s _ _))

theorem blockHeader (t : BitVec 3) : StaysQuiet (blockHeader t) :=
  (atPhase _).bind fun _ => (readBits _).bind fun _ => (readBits _).bind fun _ => modify fun _ => ⟨rfl, rfl, id⟩

theorem readAlignedLens : ∀ n i, StaysQuiet (readAlignedLens i n)
  | 0, _ => pure _
  | n + 1, i => (readBits 3).bind fun _ => bind (modify fun _ => ⟨rfl, rfl, id⟩) fun _ => readAlignedLens n (i + 1)

theorem readPreLens : ∀ n i, StaysQuiet (readPreLens i n)
  | 0, _ => pure _
  | n + 1, i => (readBits 4).bind fun _ => bind (modify fun _ => ⟨rfl, rfl, id⟩) fun _ => readPreLens n (i + 1)

/-- A length array is read, its table built, and the table stored. -/
theorem build {w n : Nat} {arr : State → Cells w} {upd : State → DecodeTable → State} (hu : ∀ s t, Quiet s (upd s t)) :
    StaysQuiet (do
      let s ← (MonadState.get : M State)
      let t ← Machine.build (arr s) n
      set (upd s t)) :=
  Keeps.get_bind fun s => by
    rw [EStateM.run_bind]
    cases hb : buildTable (codeLens (arr s) n) with
    | ok t => rw [build_ok hb]; exact hu s t
    | error c => rw [build_raise hb]; exact .refl s

/-! ### The quiet rules between elements -/

theorem startBlockHeader : StaysQuiet startBlockHeader :=
  get.bind fun _ => .ite (goto (by decide))
    (.ite ((of_onlyCur initBits_keeps).bind fun _ => goto (by decide)) (goto (by decide)))

theorem startRun : StaysQuiet startRun :=
  bind (modify fun _ => ⟨rfl, rfl, id⟩) fun _ => get.bind fun _ => .ite (raise_bind _ _) (goto (by decide))

theorem mainLoop : StaysQuiet mainLoop :=
  get.bind fun _ => .ite (goto (by decide)) (.ite startBlockHeader startRun)

theorem endRecord : ∀ r, StaysQuiet (endRecord r)
  | .main1 => goto (by decide)
  | .main2 => bind (build fun _ _ => ⟨rfl, rfl, id⟩) fun _ => goto (by decide)
  | .length => bind (build fun _ _ => ⟨rfl, rfl, id⟩) fun _ => goto (by decide)

theorem frameOutput : StaysQuiet frameOutput :=
  get.bind fun _ => .ite (raise_bind _ _)
    ((of_state fun s => readBytes_state _ s _).bind fun _ => modify fun _ => ⟨rfl, rfl, fun h => nomatch h⟩)

theorem e8Pass : StaysQuiet e8Pass := Keeps.get_bind fun s => by
  split
  · split
    · exact set_bind ⟨rfl, rfl, id⟩ (goto (by decide))
    · split
      · exact .refl s
      · exact set_bind ⟨rfl, rfl, id⟩ (goto (by decide))
  · exact goto (by decide) s

theorem seqLoop : StaysQuiet seqLoop := get.bind fun s => by
  cases s.seq with
  | none => exact throw _
  | some q => exact .ite (goto (by decide)) (goto (by decide))

end StaysQuiet

/-! ### Operations that end a command -/

namespace AnswersOnce

variable {s : State}

theorem of_quiet {m : M α} (hm : StaysQuiet m) : AnswersOnce m s := by
  have hs := hm s
  unfold AnswersOnce
  cases hr : m.run s with
  | ok a t => rw [hr] at hs; exact .inl hs
  | error e t => rw [hr] at hs; exact hs

/-- A quiet operation, and one that may answer. -/
theorem bind {m : M α} {f : α → M β} (hm : StaysQuiet m) (hf : ∀ a t, AnswersOnce (f a) t) :
    AnswersOnce (m >>= f) s := by
  have hs := hm s
  unfold AnswersOnce at hf ⊢
  rw [EStateM.run_bind]
  cases hr : m.run s with
  | error e t => rw [hr] at hs; exact hs
  | ok a t =>
    rw [hr] at hs
    have ht := hf a t
    dsimp only
    cases hu : (f a).run t with
    | ok b u => rw [hu] at ht; exact hs.then_step ht
    | error e u => rw [hu] at ht; exact .trans _ _ _ hs ht

/-- A read of the state, and what follows it. -/
theorem get_bind {f : State → M β} (h : AnswersOnce (f s) s) : AnswersOnce ((MonadState.get : M State) >>= f) s := h

theorem ite {c : Prop} [Decidable c] {m n : M α} (hm : AnswersOnce m s) (hn : AnswersOnce n s) :
    AnswersOnce (if c then m else n) s := by
  split
  · exact hm
  · exact hn

/-- An update that is quiet, or that answers. -/
theorem set {u : State} (h : GoesOnOrEnds s u) : AnswersOnce (set u : M PUnit) s := h

theorem ok {d : ReplyData} : AnswersOnce (reply 0 d) s := .inr (.reply s fun h => absurd rfl h)

theorem refused {c : BitVec 4} : AnswersOnce (reply c .none) s := .inr (.reply s fun _ => rfl)

/-- Run to its end, an error taken as its result, the operation is quiet or answers once. -/
theorem complete {m : M Unit} {t : State} (h : complete m s = .next t) (hm : AnswersOnce m s) :
    GoesOnOrEnds s t := by
  unfold AnswersOnce at hm
  rcases complete_eq_next h with hr | ⟨e, p, u, hr, rfl⟩
  · rwa [hr] at hm
  · rw [hr] at hm; exact .inr (hm.answers (.enterFault u e p))

theorem deliver : AnswersOnce deliver s :=
  bind (.modify fun _ => ⟨rfl, rfl, id⟩) fun _ u => get_bind <| by
    cases u.seq with
    | none => exact ok
    | some q => exact set (.inl ⟨rfl, rfl, fun h => nomatch h⟩)

theorem seqFinish : AnswersOnce seqFinish s := get_bind <| by
  cases s.seq with
  | none => exact of_quiet (.throw _)
  | some q => exact ite (of_quiet (.throw _)) (.inr ⟨rfl, rfl, _, rfl, fun h => absurd rfl h⟩)

end AnswersOnce

/-! ### Instructions -/

/-- The host commands (spec/30_encoding.md R71). -/
def IsCommand : Instr → Prop
  | .init _ | .decompress _ _ | .seqRun _ _ | .readState _ | .cmdReserved _ => True
  | _ => False

namespace StaysQuiet

/-- Run to its end, a quiet operation answers only by an error. -/
theorem next {m : M Unit} {s t : State} (h : complete m s = .next t) (hm : StaysQuiet m) : GoesOnOrEnds s t :=
  AnswersOnce.complete h (.of_quiet hm)

/-- The elements of the stream and of the payload end no command but by an error. -/
theorem exec_element {i : Instr} {s t : State} (hi : ¬ IsCommand i) (h : exec i s = .next t) : GoesOnOrEnds s t := by
  cases i with
  | init | decompress | seqRun | readState | cmdReserved => exact absurd trivial hi
  | hdrNoE8 =>
    exact next h <| (atPhase _).bind fun _ => modify fun _ => ⟨rfl, rfl, fun h => nomatch h⟩
  | hdrE8 =>
    exact next h <| (atPhase _).bind fun _ => (readBits _).bind fun _ => (readBits _).bind fun _ =>
      modify fun _ => ⟨rfl, rfl, fun h => nomatch h⟩
  | blkVerbatim => exact next h <| (blockHeader _).bind fun _ => goto (by decide)
  | blkAligned => exact next h <| (blockHeader _).bind fun _ => goto (by decide)
  | blkUncompressed =>
    exact next h <| (blockHeader _).bind fun _ => .bind (modify fun _ => ⟨rfl, rfl, id⟩) fun _ =>
      (of_onlyCur alignToRaw_keeps).bind fun _ => goto (by decide)
  | blkInvalid0 | blkInvalid4to7 => exact next h <| (blockHeader _).bind fun _ => throw _
  | alnLens =>
    exact next h <| (atPhase _).bind fun _ => (readAlignedLens _ _).bind fun _ =>
      build fun _ _ => ⟨rfl, rfl, fun h => nomatch h⟩
  | preLens =>
    exact next h <| atPreLens.bind fun _ => (readPreLens _ _).bind fun _ =>
      build fun _ _ => ⟨rfl, rfl, fun h => nomatch h⟩
  | preDelta => exact next h <| inRecord.bind fun _ => modify fun s => .writeLens s _ _ _ _
  | preZrun4 | preZrun20 =>
    exact next h <| inRecord.bind fun _ => (readBits _).bind fun _ => modify fun s => .writeLens s _ _ _ _
  | preSame =>
    exact next h <| inRecord.bind fun _ => (readBits _).bind fun _ => get.bind fun _ =>
      (of_onlyCur (decodeSym_keeps _)).bind fun _ => .ite (raise_bind _ _) (modify fun s => .writeLens s _ _ _ _)
  | mainLit => exact next h <| (inRun _).bind fun _ => (winWrite _).bind fun _ => modify fun s => .spendRun s _
  | mainMatchR0 => exact next h <| matchElement _ _ _ matchR0
  | mainMatchR1 => exact next h <| matchElement _ _ _ matchR1
  | mainMatchR2 => exact next h <| matchElement _ _ _ matchR2
  | mainMatchOne => exact next h <| matchElement _ _ _ fun _ => matchNew _ _
  | mainMatchVerb => exact next h <| matchElement _ _ _ (matchVerb _)
  | mainMatchAlgn => exact next h <| matchElement _ _ _ (matchAlgn _)
  | lenFooter =>
    refine next h <| get.bind fun s => ?_
    split
    · exact offsetStep _ _
    · exact throw _
  | alnSym =>
    refine next h <| get.bind fun s => ?_
    split
    · exact matchNew _ _
    · exact throw _
  | uncPad =>
    exact next h <| (atPhase _).bind fun _ => (of_onlyCur readRawByte_keeps).bind fun _ =>
      (of_onlyCur initBits_keeps).bind fun _ => goto (by decide)
  | uncHdr =>
    exact next h <| (atPhase _).bind fun _ =>
      (of_onlyCur readRaw32_keeps).bind fun _ => .bind (modify fun _ => ⟨rfl, rfl, id⟩) fun _ =>
      (of_onlyCur readRaw32_keeps).bind fun _ => .bind (modify fun _ => ⟨rfl, rfl, id⟩) fun _ =>
      (of_onlyCur readRaw32_keeps).bind fun _ => .bind (modify fun _ => ⟨rfl, rfl, id⟩) fun _ => goto (by decide)
  | uncByte =>
    exact next h <| (inRun _).bind fun _ => (of_onlyCur readRawByte_keeps).bind fun _ =>
      (winWrite _).bind fun _ => modify fun s => .spendRun s _
  | frmStd | frmExplicit => exact next h <| atFrameHdr.bind fun _ => frame _ _ _ _

end StaysQuiet

namespace AnswersOnce

theorem exec {i : Instr} {s t : State} (h : exec i s = .next t) : GoesOnOrEnds s t := by
  cases i with
  | init =>
    exact complete h <| bind .betweenCommands fun _ u => ite (get_bind <| set (.inr (.enterFault u _ _)))
      (bind (.modify fun _ => ⟨rfl, rfl, id⟩) fun _ _ => ok)
  | decompress =>
    exact complete h <| bind .betweenCommands fun _ u => get_bind <| ite refused <|
      set (.inl (.startFrame { u with seq := none } _ _))
  | seqRun =>
    exact complete h <| bind .betweenCommands fun _ u => get_bind <| ite refused <|
      set (.inl ⟨rfl, rfl, fun h => nomatch h⟩)
  | readState => exact complete h <| bind .betweenCommands fun _ _ => get_bind ok
  | cmdReserved => exact complete h <| bind .betweenCommands fun _ _ => refused
  | _ => exact StaysQuiet.exec_element id h

end AnswersOnce

/-! ### The fetch -/

/-- What a fetch from `s` comes to: quiet up to the instruction, or a step that is quiet or answers. -/
def Fetched.AnswersOnce (s : State) : Fetched → Prop
  | .run _ t => Quiet s t
  | .done o => ∀ t, o = .next t → GoesOnOrEnds s t

namespace AnswersOnce

theorem decoded {s t : State} (w : OpWord) (h : Quiet s t) : (decoded w t).AnswersOnce s := by
  unfold Machine.decoded
  cases decode w with
  | ok i => exact h
  | error e => exact fun _ hn => nomatch hn

theorem readOpcode {m : M OpWord} (hm : Keeps OnlyCur m) (s : State) : (readOpcode m s).AnswersOnce s := by
  have hs := StaysQuiet.of_onlyCur hm s
  unfold Machine.readOpcode
  cases hr : m.run s with
  | ok w u => rw [hr] at hs; exact decoded w hs
  | error e u => rw [hr] at hs; exact fun t ht => hs.then_step (StaysQuiet.next ht (.throw e))

theorem fetchRecord (r : Record) (x : Nat) (s : State) : (fetchRecord r x s).AnswersOnce s := by
  unfold Machine.fetchRecord
  split
  · exact readOpcode (symbolWord_keeps _ _) s
  · exact fun t ht => StaysQuiet.next ht (.endRecord r)

theorem fetchRun (s : State) : (fetchRun s).AnswersOnce s := by
  unfold Machine.fetchRun
  split
  · rintro t ⟨⟩; exact .inl (.goto s (by decide))
  · split
    · exact readOpcode (symbolWord_keeps _ _) s
    · exact decoded _ (.refl s)

theorem fetchFrame (s : State) : (fetchFrame s).AnswersOnce s := by
  unfold Machine.fetchFrame
  cases s.seq with
  | none => exact fun _ hn => nomatch hn
  | some q =>
    dsimp only
    cases q.payload[q.pos]? with
    | none => exact fun t ht => StaysQuiet.next ht (.throw _)
    | some h0 => exact decoded _ (.refl s)

/-- While a command is in progress (R140). -/
theorem fetch {s : State} (hs : s.phase ≠ .idle) : (fetch s).AnswersOnce s := by
  unfold Machine.fetch
  cases hp : s.phase with
  | idle => exact absurd hp hs
  | seqLoop => exact fun t ht => StaysQuiet.next ht .seqLoop
  | frameHdr => exact fetchFrame s
  | seqFinish => exact fun t ht => complete ht seqFinish
  | streamHdr | blockHdr => exact readOpcode (fieldWord_keeps _) s
  | mainLoop => exact fun t ht => StaysQuiet.next ht .mainLoop
  | uncPad | alnLens | preLens | uncHdr => exact decoded _ (.refl s)
  | record r x => exact fetchRecord r x s
  | runLoop => exact fetchRun s
  | footer | alignedSym => exact readOpcode (symbolWord_keeps _ _) s
  | frameOutput => exact fun t ht => StaysQuiet.next ht .frameOutput
  | e8Pass => exact fun t ht => StaysQuiet.next ht .e8Pass
  | deliver => exact fun t ht => complete ht deliver

/-- A step of a command in progress is quiet, or it ends the command. -/
theorem step {s t : State} (hs : s.phase ≠ .idle) (h : step s = .next t) : GoesOnOrEnds s t := by
  have hf := fetch hs
  unfold Machine.step at h
  cases hfs : Machine.fetch s with
  | run i u => rw [hfs] at hf h; exact Quiet.then_step hf (exec h)
  | done o => rw [hfs] at hf h; exact hf t h

end AnswersOnce

theorem replies_of_busy {s t : State} (h : GoesOnOrEnds s t) (ht : t.phase ≠ .idle) : t.replies = s.replies := by
  rcases h with ⟨-, hr, -⟩ | ⟨-, hi, -⟩
  · exact hr
  · exact absurd hi ht

/-- Settles O44: a step of a command in progress is quiet or answers, and so does the command that a step between
commands takes. -/
theorem commandsAreAtomic : Obligations.CommandsAreAtomic := by
  intro s t h
  by_cases hs : s.phase = .idle
  · refine ⟨fun hb => absurd hs hb, fun ht => ?_, fun hb => absurd hs hb⟩
    cases hc : s.pending with
    | nil => cases (step_idle hs hc).symm.trans h; rfl
    | cons c rest =>
      rw [step_command hs hc] at h
      exact replies_of_busy (s := s.takeCommand c rest) (AnswersOnce.exec h) ht
  · have hq := AnswersOnce.step hs h
    refine ⟨fun _ => ?_, replies_of_busy hq, fun _ ht => ?_⟩
    · exact hq.elim (fun hq => hq.1) (fun ha => ha.1)
    · rcases hq with ⟨-, -, hi⟩ | ⟨-, -, hr⟩
      · exact absurd (hi ht) hs
      · exact hr

end Sys2Proof.Machine
end

section
/-! SUPPORT. Stream and block headers (spec/43_block_headers.md R170 to R181): the fields they read as numbers, the three
elements of a block header, and the alignment of an UNCOMPRESSED one. -/

namespace Sys2Proof.Machine

/-! ### Completing an operation -/

/-- An operation that raises takes the error in the state it ends in, at the cursor where it names no position. -/
theorem takesError_of_complete {m : M Unit} {s t : State} {e : Err} {p : Option Nat}
    (hm : m.run s = .error (.raise e p) t) : TakesError (complete m s) t e (p.getD t.cur.position) :=
  complete_raise hm

/-- What follows an operation that answers is completed from where it ends. -/
theorem complete_bind {α : Type} {m : M α} {f : α → M Unit} {s t : State} {a : α} (h : m.run s = .ok a t) :
    complete (m >>= f) s = complete (f a) t := by
  unfold complete
  rw [M.bind_ok h]

/-! ### Fields of a header as numbers -/

/-- Two fields side by side as a number, the first the high one (spec/30_encoding.md R75, R76). -/
theorem append_fields_toNat {m n : Nat} (hi : BitVec m) (lo : BitVec n) :
    (hi ++ lo).toNat = hi.toNat * 2 ^ n + lo.toNat := by
  rw [BitVec.toNat_append, ← Nat.shiftLeft_add_eq_or_of_lt lo.isLt, Nat.shiftLeft_eq]

/-- Bits that can be read leave the cursor a 32-bit number. -/
theorem skip_eq {s : State} {n : Nat} (h : s.canRead n = true) :
    s.skip n = { s with cur := { s.cur with c := BitVec.ofNat 32 (s.cur.c.toNat + n) } } := by
  rw [State.skip, narrow_of_lt (canRead_iff.1 h).2.2]

/-- Two fields in a row, and what follows them. -/
theorem readBits_twice {α : Type} {s : State} {m n : Nat} (h : s.canRead (m + n) = true)
    (f : BitVec m → BitVec n → M α) :
    (do let hi ← readBits m; let lo ← readBits n; f hi lo : M α).run s =
      (f (s.field 0 m) (s.field m n)).run (s.skip (m + n)) := by
  have hm := canRead_mono h (Nat.le_add_right m n)
  rw [M.bind_ok (readBits_ok hm), M.bind_ok (readBits_ok (canRead_skip h)), field_skip hm, skip_skip hm, Nat.add_zero]

/-! ### The stream header (R170) -/

theorem exec_hdrNoE8 {s : State} (hp : s.phase = .streamHdr) :
    exec .hdrNoE8 s = .next ((s.setHeader 0).goto .mainLoop) :=
  complete_ok (by rw [M.bind_ok (atPhase_ok hp)]; rfl)

theorem exec_hdrE8 {s : State} (hp : s.phase = .streamHdr) (h : s.canRead 32 = true) :
    exec .hdrE8 s =
      .next (((s.skip 32).setHeader (fileSize (s.field 0 16) (s.field 16 16))).goto .mainLoop) :=
  complete_ok (by rw [M.bind_ok (atPhase_ok hp), readBits_twice h]; rfl)

/-- Settles O7: the file size is 0, or the two halves after the flag. -/
theorem streamHeaderSetsFileSize : Obligations.StreamHeaderSetsFileSize := by
  refine fun s hp => ⟨exec_hdrNoE8 hp, fun h => ⟨_, exec_hdrE8 hp h, append_fields_toNat _ _, ?_⟩⟩
  rw [skip_eq h]
  rfl

/-! ### The elements of a block header (R172) -/

/-- The length of the block header at the cursor. -/
def State.headerLen (s : State) : BitVec 24 := blockLen (s.field 0 16) (s.field 16 8)

theorem headerLen_toNat (s : State) :
    s.headerLen.toNat = (s.field 0 16).toNat * 256 + (s.field 16 8).toNat := append_fields_toNat _ _

section blockHeader

variable {s : State} (hp : s.phase = .blockHdr) (h : s.canRead 24 = true)
include hp h

theorem blockHeader_ok (t : BitVec 3) : (blockHeader t).run s = .ok () ((s.skip 24).setBlock t s.headerLen) := by
  rw [blockHeader, M.bind_ok (atPhase_ok hp), readBits_twice h]
  rfl

theorem exec_blkVerbatim :
    exec .blkVerbatim s = .next (((s.skip 24).setBlock 1 s.headerLen).goto (.preLens .main1)) :=
  complete_ok (M.bind_ok (blockHeader_ok hp h 1))

theorem exec_blkAligned : exec .blkAligned s = .next (((s.skip 24).setBlock 2 s.headerLen).goto .alnLens) :=
  complete_ok (M.bind_ok (blockHeader_ok hp h 2))

/-- The element of an invalid block type raises behind the header, whose elements are written (R181). -/
theorem exec_blkInvalid {i : Instr} {ty : BitVec 3} (hi : i = .blkInvalid0 ∧ ty = 0 ∨ i = .blkInvalid4to7 ty) :
    TakesError (exec i s) ((s.skip 24).setBlock ty s.headerLen) .invalidBlockType (s.skip 24).cur.position := by
  rcases hi with ⟨rfl, rfl⟩ | rfl <;> exact takesError_of_complete (p := none) (M.bind_ok (blockHeader_ok hp h _))

end blockHeader

/-- Settles O8: both types write the same length, each its own type and phase. -/
theorem codedBlockHeaderSetsBlock : Obligations.CodedBlockHeaderSetsBlock := by
  refine fun s hp h => ⟨_, _, exec_blkVerbatim hp h, exec_blkAligned hp h, headerLen_toNat s, ?_, ?_⟩ <;>
    rw [skip_eq h] <;> rfl

/-- Settles O10: the position of the error is the cursor behind the header. -/
theorem invalidBlockTypeFaults : Obligations.InvalidBlockTypeFaults := by
  intro s i ty hp h hi hpos hbit
  have hcur : (s.skip 24).cur.position = 8 * s.cur.segBase.toNat + s.cur.c.toNat + 24 := by
    have hmode : (s.skip 24).cur.mode = .bit := hbit
    rw [position_eq, if_pos hmode, skip_c h, Nat.add_assoc]
    rfl
  have ht := exec_blkInvalid hp h (hi.imp id And.left)
  rw [TakesError, hcur, narrow_of_lt hpos, skip_eq h] at ht
  exact ⟨_, ht, headerLen_toNat s, rfl⟩

/-! ### The alignment of an UNCOMPRESSED header (R179, R106) -/

/-- The raw position of the word after the one the cursor stands in. -/
def State.nextWord (s : State) : Nat := s.cur.segBase.toNat + 2 * (s.cur.c.toNat / 16 + 1)

theorem alignToRaw_ok {s : State} (h : s.canFetch 16) :
    alignToRaw.run s =
      .ok () { s with cur := { s.cur with mode := .raw, inPos := narrow s.nextWord, c := 0 } } := by
  rw [alignToRaw, M.bind_ok (fetchBits_canFetch h)]
  rfl

theorem alignToRaw_raise {s : State} (h : ¬ s.canFetch 16) :
    alignToRaw.run s =
      .error (.raise .truncatedInput (some (8 * s.cur.segBase.toNat + s.cur.c.toNat))) s :=
  M.bind_error (fetchBits_raise h)

/-- The state behind an UNCOMPRESSED header, before the alignment. -/
def State.uncompressedBlock (s : State) : State := ((s.skip 24).setBlock 3 s.headerLen).startE8

section uncompressed

variable {s : State} (hp : s.phase = .blockHdr) (h : s.canRead 24 = true)
include hp h

/-- BLK.UNCOMPRESSED writes the elements of its block, then aligns. -/
theorem execBlkUncompressed_eq :
    exec .blkUncompressed s = complete (do alignToRaw; goto .uncHdr) s.uncompressedBlock :=
  complete_bind (blockHeader_ok hp h 3)

theorem exec_blkUncompressed (hf : (s.skip 24).canFetch 16) :
    exec .blkUncompressed s =
      .next (({ s.uncompressedBlock with
        cur := { s.cur with mode := .raw, inPos := narrow (s.skip 24).nextWord, c := 0 } } : State).goto .uncHdr) := by
  rw [execBlkUncompressed_eq hp h]
  exact complete_ok (M.bind_ok (alignToRaw_ok (s := s.uncompressedBlock) hf))

theorem exec_blkUncompressed_truncated (hf : ¬ (s.skip 24).canFetch 16) :
    TakesError (exec .blkUncompressed s) s.uncompressedBlock .truncatedInput
      (8 * s.cur.segBase.toNat + (s.cur.c.toNat + 24)) := by
  rw [execBlkUncompressed_eq hp h, ← skip_c h]
  exact complete_raise (M.bind_error (alignToRaw_raise (s := s.uncompressedBlock) hf))

end uncompressed

/-- Settles O9: the fetch at the alignment decides which of the two outcomes it is. -/
theorem uncompressedHeaderAligns : Obligations.UncompressedHeaderAligns := by
  refine fun s hp h => ⟨fun hf hpos => ?_, fun hf => ?_⟩
  · have hword : (s.skip 24).nextWord = s.cur.segBase.toNat + 2 * ((s.cur.c.toNat + 24) / 16 + 1) := by
      rw [State.nextWord, skip_c h]
      rfl
    rw [exec_blkUncompressed hp h hf, hword]
    exact ⟨_, rfl, headerLen_toNat s, rfl, rfl, rfl, narrow_toNat hpos, rfl⟩
  · exact ⟨s.headerLen, headerLen_toNat s, exec_blkUncompressed_truncated hp h hf⟩

end Sys2Proof.Machine
end

section
/-! SUPPORT. Length fields and tree-length records (spec/43_block_headers.md R175 to R190): the fixed-width lengths with
their tables, the elements of a record, and the trees a record's end builds. -/

namespace Sys2Proof.Machine

/-! ### A table from a length array -/

section build

variable {w n : Nat} {arr : State → Cells w} {upd : State → DecodeTable → State} {s : State}

/-- A length array is read, its table built, and the table stored. -/
theorem build_set_ok {t : DecodeTable} (h : buildTable (codeLens (arr s) n) = .ok t) :
    (do let s ← (get : M State); let t ← build (arr s) n; set (upd s t) : M PUnit).run s = .ok ⟨⟩ (upd s t) := by
  rw [M.bind_ok (EStateM.run_get s), M.bind_ok (build_ok h)]
  rfl

/-- A bad set of lengths raises, and no table is stored (R123; log 15). -/
theorem build_set_raise {c : TableCause} (h : buildTable (codeLens (arr s) n) = .error c) :
    (do let s ← (get : M State); let t ← build (arr s) n; set (upd s t) : M PUnit).run s =
      .error (.raise (.malformedHuffmanTable c) none) s := by
  rw [M.bind_ok (EStateM.run_get s), M.bind_error (build_raise h)]

end build

/-! ### Fixed-width length fields (R189, R190) -/

/-- The aligned lengths, replaced. -/
def State.setAlignedLens (s : State) (m : Cells 3) : State := { s with dec := { s.dec with alignedLen := m } }

/-- The pre-tree lengths, replaced. -/
def State.setPreLens (s : State) (m : Cells 4) : State := { s with dec := { s.dec with preLen := m } }

section alnLens

variable {s u : State} {m : Cells 3} (hp : s.phase = .alnLens)
  (hread : (readAlignedLens 0 8).run s = .ok () (u.setAlignedLens m))
include hp hread

theorem exec_alnLens {t : DecodeTable} (ht : buildTable (codeLens m 8) = .ok t) :
    exec .alnLens s =
      .next (({ u with dec := { u.dec with alignedLen := m, alignedTable := t } } : State).goto (.preLens .main1)) :=
  complete_ok <| by
    rw [M.bind_ok (atPhase_ok hp), M.bind_ok hread]
    exact build_set_ok (s := u.setAlignedLens m) ht

theorem exec_alnLens_malformed {c : TableCause} (hc : buildTable (codeLens m 8) = .error c) :
    TakesError (exec .alnLens s) (u.setAlignedLens m) (.malformedHuffmanTable c) u.cur.position :=
  takesError_of_complete (p := none) <| by
    rw [M.bind_ok (atPhase_ok hp), M.bind_ok hread]
    exact build_set_raise (s := u.setAlignedLens m) hc

end alnLens

/-- Settles O11: the eight fields are read whatever Build says of them, which then decides between the table and the
error. -/
theorem alignedLengthsAreRead : Obligations.AlignedLengthsAreRead := by
  intro s hp h hm
  obtain ⟨-, -, -, hwf, -⟩ := hm
  refine ⟨fun k hk => ((fieldCells_spec s hwf 8).2 k).trans (if_pos hk), ?_⟩
  have hread : (readAlignedLens 0 8).run s =
    .ok () ((s.skip 24).setAlignedLens (s.fieldCells s.dec.alignedLen 8)) := readAlignedLens_eight h
  generalize s.fieldCells s.dec.alignedLen 8 = m at hread ⊢
  refine ⟨fun t ht => ?_, fun c hc => exec_alnLens_malformed hp hread hc⟩
  rw [exec_alnLens hp hread ht, skip_eq h]
  rfl

section preLens

variable {s u : State} {r : Record} {m : Cells 4} (hp : s.phase = .preLens r)
  (hread : (readPreLens 0 20).run s = .ok () (u.setPreLens m))
include hp hread

theorem exec_preLens {t : DecodeTable} (ht : buildTable (codeLens m 20) = .ok t) :
    exec .preLens s =
      .next (({ u with dec := { u.dec with preLen := m, preTable := t } } : State).goto (.record r r.first)) :=
  complete_ok <| by
    rw [M.bind_ok (atPreLens_ok hp), M.bind_ok hread]
    exact build_set_ok (s := u.setPreLens m) ht

theorem exec_preLens_malformed {c : TableCause} (hc : buildTable (codeLens m 20) = .error c) :
    TakesError (exec .preLens s) (u.setPreLens m) (.malformedHuffmanTable c) u.cur.position :=
  takesError_of_complete (p := none) <| by
    rw [M.bind_ok (atPreLens_ok hp), M.bind_ok hread]
    exact build_set_raise (s := u.setPreLens m) hc

end preLens

theorem Record.first_eq (r : Record) : r.first = if r = .main2 then 256 else 0 := by
  cases r <;> rfl

/-- Settles O12: the twenty fields are read whatever Build says of them, which then decides between the table and the
error. -/
theorem preTreeLengthsAreRead : Obligations.PreTreeLengthsAreRead := by
  intro s r hp h hm
  obtain ⟨-, -, -, -, hwf⟩ := hm
  refine ⟨fun k hk => ((fieldCells_spec s hwf 20).2 k).trans (if_pos hk), ?_⟩
  have hread : (readPreLens 0 20).run s =
    .ok () ((s.skip 80).setPreLens (s.fieldCells s.dec.preLen 20)) := readPreLens_twenty h
  generalize s.fieldCells s.dec.preLen 20 = m at hread ⊢
  refine ⟨fun t ht => ?_, fun c hc => exec_preLens_malformed hp hread hc⟩
  rw [exec_preLens hp hread ht, skip_eq h, r.first_eq]
  rfl

/-! ### The elements of a record (R183 to R188) -/

/-- What an element writes, as the record's array replaced and the index moved on. -/
theorem writeLens_eq (s : State) (r : Record) (x n : Nat) (v : BitVec 5) :
    s.writeLens r x n v = (s.setRecordLens ((s.writeLens r x n v).recordLens r) r).goto (.record r (x + n)) := by
  rw [State.writeLens_recordLens]
  rfl

/-- Moving the cursor leaves the record's array. -/
theorem OnlyCur.recordLens {s u : State} (h : OnlyCur s u) (r : Record) : u.recordLens r = s.recordLens r := by
  rw [h]
  cases r <;> rfl

/-- Moving the cursor leaves the memory canonical. -/
theorem OnlyCur.canonical {s u : State} (h : OnlyCur s u) (hm : MemoryCanonical s) : MemoryCanonical u := by
  rw [h]
  exact hm

section record

variable {s : State} {r : Record} {x : Nat} (hp : s.phase = .record r x) (hx : x < r.last s.dec.wb)
include hp hx

theorem exec_preDelta (z : BitVec 5) :
    exec (.preDelta z) s = .next (s.writeLens r x 1 (deltaLen (lenAt (s.recordLens r) x) z.toNat)) :=
  complete_ok (by rw [M.bind_ok (inRecord_ok hp hx)]; rfl)

theorem exec_preZrun4 (h : s.canRead 4 = true) :
    exec .preZrun4 s = .next ((s.skip 4).writeLens r x (4 + (s.field 0 4).toNat) 0) :=
  complete_ok (by rw [M.bind_ok (inRecord_ok hp hx), M.bind_ok (readBits_ok h)]; rfl)

theorem exec_preZrun20 (h : s.canRead 5 = true) :
    exec .preZrun20 s = .next ((s.skip 5).writeLens r x (20 + (s.field 0 5).toNat) 0) :=
  complete_ok (by rw [M.bind_ok (inRecord_ok hp hx), M.bind_ok (readBits_ok h)]; rfl)

section same

variable {u : State} {z2 : Nat} (h : s.canRead 1 = true) (hz : (decodeSym s.dec.preTable).run (s.skip 1) = .ok z2 u)
include h hz

theorem exec_preSame (hle : z2 ≤ 16) :
    exec .preSame s =
      .next (u.writeLens r x (4 + (s.field 0 1).toNat) (deltaLen (lenAt (u.recordLens r) x) z2)) :=
  complete_ok <| by
    rw [M.bind_ok (inRecord_ok hp hx), M.bind_ok (readBits_ok h), M.bind_ok (EStateM.run_get _), State.skip_dec,
      M.bind_ok hz, if_neg (not_lt.2 hle)]
    rfl

theorem exec_preSame_run (hgt : 16 < z2) :
    exec .preSame s = .next (u.enterFault (.malformedHuffmanTable .badSameSymbol) none) :=
  complete_raise <| by
    rw [M.bind_ok (inRecord_ok hp hx), M.bind_ok (readBits_ok h), M.bind_ok (EStateM.run_get _), State.skip_dec,
      M.bind_ok hz, if_pos hgt]
    rfl

end same

end record

/-- Settles O13: one length is written, the delta's. -/
theorem preDeltaWritesOneLength : Obligations.PreDeltaWritesOneLength := by
  refine fun s r x z hp hx hm => ⟨_, exec_preDelta hp hx z, rfl, ?_, fun y hy => ?_, writeLens_eq s r x 1 _⟩
  · rw [lenAt_writeLens hm, if_pos (by omega), deltaLen_toNat]
  · rw [lenAt_writeLens hm, if_neg (by omega)]

/-- Settles O14: both runs write zeros, each its own count. -/
theorem zeroRunsWriteZeros : Obligations.ZeroRunsWriteZeros := by
  refine fun s r x hp hx hm => ⟨fun h => ⟨_, exec_preZrun4 hp hx h, fun y => ?_, writeLens_eq _ r x _ 0⟩,
    fun h => ⟨_, exec_preZrun20 hp hx h, fun y => ?_, writeLens_eq _ r x _ 0⟩⟩
  all_goals rw [lenAt_writeLens ((OnlyCur.skip s _).canonical hm), State.skip_recordLens]

/-- Settles O15: the copies are of the delta of the old length at the index, which the second symbol's decoding leaves. -/
theorem sameRunWritesCopies : Obligations.SameRunWritesCopies := by
  intro s u r x z2 hp hx hm h hz hle
  have hcur : OnlyCur s u := (OnlyCur.skip s 1).trans _ _ _ (decodeSym_onlyCur hz)
  refine ⟨_, exec_preSame hp hx h hz hle, fun y => ?_, writeLens_eq u r x _ _⟩
  rw [lenAt_writeLens (hcur.canonical hm), hcur.recordLens]
  split
  · exact deltaLen_toNat _ _
  · rfl

/-- Settles O16: the error is raised before anything is written. -/
theorem sameRunRejectsRunSymbol : Obligations.SameRunRejectsRunSymbol := by
  intro s u r x z2 hp hx h hz hge _
  have hcur : OnlyCur s u := (OnlyCur.skip s 1).trans _ _ _ (decodeSym_onlyCur hz)
  refine ⟨_, exec_preSame_run hp hx h hz hge, rfl, rfl, rfl, ?_, rfl, ?_⟩
  · rw [State.enterFault_dec, hcur]
  · rw [State.enterFault_replies, hcur]
    rfl

/-! ### The end of a record (R175 to R178) -/

theorem step_recordEnd {s : State} {r : Record} {x : Nat} (hp : s.phase = .record r x) (hx : r.last s.dec.wb ≤ x) :
    step s = complete (endRecord r) s := by
  simp only [step, fetch, hp, fetchRecord, if_neg (not_lt.2 hx)]

theorem endRecord_main2 {s : State} {t : DecodeTable} (h : buildTable (codeLens s.dec.mainLen 656) = .ok t) :
    (endRecord .main2).run s =
      .ok () (({ s with
        dec := { s.dec with mainTable := t, e8Started := e8StartedBy s.dec.mainLen s.dec.e8Started } } : State).goto
          (.preLens .length)) :=
  M.bind_ok (build_set_ok (arr := (·.dec.mainLen)) h)

theorem endRecord_length {s : State} {t : DecodeTable} (h : buildTable (codeLens s.dec.lengthLen 250) = .ok t) :
    (endRecord .length).run s =
      .ok () (({ s with dec := { s.dec with lengthTable := t } } : State).goto .mainLoop) :=
  M.bind_ok (build_set_ok (arr := (·.dec.lengthLen)) h)

theorem endRecord_malformed {s : State} {r : Record} {cause : TableCause}
    (h : r = .main2 ∧ buildTable (codeLens s.dec.mainLen 656) = .error cause ∨
      r = .length ∧ buildTable (codeLens s.dec.lengthLen 250) = .error cause) :
    (endRecord r).run s = .error (.raise (.malformedHuffmanTable cause) none) s := by
  rcases h with ⟨rfl, hc⟩ | ⟨rfl, hc⟩ <;> exact M.bind_error (build_set_raise hc)

/-- Settles O36: record by record, with Build's answer deciding at the end of the second and the third. -/
theorem recordEndBuildsTrees : Obligations.RecordEndBuildsTrees := by
  intro s r x hp hx
  rw [step_recordEnd hp hx]
  refine ⟨?_, ?_, ?_, fun cause h => ⟨_, complete_raise (endRecord_malformed h), rfl, rfl, rfl, rfl⟩⟩
  · rintro rfl
    exact complete_ok (M.run_goto _ s)
  · rintro table rfl h
    exact complete_ok (endRecord_main2 h)
  · rintro table rfl h
    exact complete_ok (endRecord_length h)

end Sys2Proof.Machine
end

section
/-! SUPPORT. Raw elements (spec/43_block_headers.md R171, R180): the pad byte, and the three repeated offsets, with the
raw word where the chunk ends. -/

namespace Sys2Proof.Machine

/-! ### Raw positions -/

theorem canReadRaw_iff {s : State} {n : Nat} :
    s.canReadRaw n = true ↔ s.cur.inPos.toNat + n ≤ s.chunk.length ∧ s.cur.inPos.toNat + n < 2 ^ 32 := by
  simp [State.canReadRaw]

/-- Raw bytes that are there leave the raw position a 32-bit number. -/
theorem skipRaw_eq {s : State} {n : Nat} (h : s.canReadRaw n = true) :
    s.skipRaw n = { s with cur := { s.cur with inPos := BitVec.ofNat 32 (s.cur.inPos.toNat + n) } } := by
  rw [State.skipRaw, narrow_of_lt (canReadRaw_iff.1 h).2]

/-- A raw word after `m` bytes, seen from before them. -/
theorem rawWord_skip {s : State} {m : Nat} (h : s.canReadRaw m = true) (off : Nat) :
    (s.skipRaw m).rawWord off = s.rawWord (m + off) := by
  simp only [State.rawWord, rawByte_skip h, Nat.add_assoc]

/-- A raw word as a number, least significant byte first (spec/40_bitreader.md R108). -/
theorem rawWord_toNat (s : State) (off : Nat) :
    (s.rawWord off).toNat =
      (s.rawByte off).toNat + 256 * (s.rawByte (off + 1)).toNat + 65536 * (s.rawByte (off + 2)).toNat +
        16777216 * (s.rawByte (off + 3)).toNat := append_toNat _ _ _ _

/-! ### The pad byte (R171) -/

theorem exec_uncPad {s : State} (hp : s.phase = .uncPad) (h : s.canReadRaw 1 = true) :
    exec .uncPad s =
      .next (({ s.skipRaw 1 with cur := (s.skipRaw 1).cur.initBits } : State).goto .blockHdr) :=
  complete_ok (by rw [M.bind_ok (atPhase_ok hp), M.bind_ok (readRawByte_ok h)]; rfl)

/-- Settles O25: the pad byte is there, or the chunk ends before it. -/
theorem padByteRestartsSegment : Obligations.PadByteRestartsSegment := by
  refine fun s hp => ⟨fun h => ?_, fun h => ?_⟩
  · rw [exec_uncPad hp h, skipRaw_eq h]
    rfl
  · exact takesError_of_complete (p := some _) <| by
      rw [M.bind_ok (atPhase_ok hp), M.bind_error (readRawByte_raise h)]

/-! ### A chunk that ends inside a raw word -/

/-- The chunk ends less than `n` bytes past the raw position. -/
def EndsWithin (n : Nat) (s : State) : Prop :=
  ChunkFits s ∧ s.cur.inPos.toNat ≤ s.chunk.length ∧ s.chunk.length < s.cur.inPos.toNat + n

/-- The operation raises TruncatedInput, with no more than the cursor moved. -/
def Truncates {α : Type} (m : M α) (s : State) : Prop :=
  ∃ p u, m.run s = .error (.raise .truncatedInput p) u ∧ OnlyCur s u

/-- A raw byte of a chunk that ends within `n + 1` bytes: it is not there, or the rest reads on within `n` bytes. -/
theorem Truncates.readRawByte_bind {α : Type} {f : Byte → M α} {s : State} {n : Nat} (h : EndsWithin (n + 1) s)
    (hf : ∀ b t, EndsWithin n t → Truncates (f b) t) : Truncates (readRawByte >>= f) s := by
  obtain ⟨hc, hle, hlt⟩ := h
  by_cases hend : s.chunk.length ≤ s.cur.inPos.toNat
  · exact ⟨_, s, M.bind_error (readRawByte_raise hend), rfl⟩
  · have hread : s.canReadRaw 1 = true := by
      have hc : s.chunk.length < 2 ^ 32 := hc
      exact canReadRaw_iff.2 (by omega)
    have hpos := skipRaw_inPos hread
    obtain ⟨p, u, hu, hcur⟩ := hf (s.rawByte 0) (s.skipRaw 1)
      ⟨hc, by rw [hpos, State.skipRaw_chunk]; omega, by rw [hpos, State.skipRaw_chunk]; omega⟩
    exact ⟨p, u, (M.bind_ok (readRawByte_ok hread)).trans hu, OnlyCur.trans s (s.skipRaw 1) u rfl hcur⟩

theorem readRaw32_truncates {s : State} (h : EndsWithin 4 s) : Truncates readRaw32 s :=
  .readRawByte_bind h fun _ _ h => .readRawByte_bind h fun _ _ h => .readRawByte_bind h fun _ _ h =>
    .readRawByte_bind h fun _ _ ⟨_, hle, hlt⟩ => absurd hlt (not_lt.2 hle)

/-! ### The repeated offsets (R180) -/

/-- A raw word is read and stored, and what follows. -/
theorem complete_storeRaw32 {s : State} (h : s.canReadRaw 4 = true) (upd : Word → State → State) (m : M Unit) :
    complete (do let a ← readRaw32; modify (upd a); m) s = complete m (upd (s.rawWord 0) (s.skipRaw 4)) :=
  (complete_bind (readRaw32_ok h)).trans (complete_bind (EStateM.run_modify _ _))

/-- The state past the first two offsets of an UNCOMPRESSED header. -/
def State.afterTwoOffsets (s : State) : State :=
  { s.skipRaw 8 with dec := { s.dec with r0 := s.rawWord 0, r1 := s.rawWord 4 } }

/-- The third offset, and the loop tests next. -/
def loadLastOffset : M Unit := do
  let c ← readRaw32
  modify fun s => { s with dec := { s.dec with r2 := c } }
  goto .mainLoop

section uncHdr

variable {s : State} (hp : s.phase = .uncHdr)
include hp

/-- The first two offsets are stored before the third is read. -/
theorem exec_uncHdr_eq (h : s.canReadRaw 8 = true) :
    exec .uncHdr s = complete loadLastOffset s.afterTwoOffsets := by
  have h4 := canReadRaw_mono h (show 4 ≤ 8 by omega)
  have hstate : ({ (s.skipRaw 4).skipRaw 4 with
      dec := { s.dec with r0 := s.rawWord 0, r1 := (s.skipRaw 4).rawWord 0 } } : State) = s.afterTwoOffsets := by
    rw [skipRaw_skipRaw h4, rawWord_skip h4]
    rfl
  refine (complete_bind (atPhase_ok hp)).trans <| (complete_storeRaw32 h4 _ _).trans <|
    (complete_storeRaw32 (s := { s.skipRaw 4 with dec := { s.dec with r0 := s.rawWord 0 } })
      (canReadRaw_skip (m := 4) h) _ _).trans ?_
  exact congrArg (complete loadLastOffset) hstate

theorem exec_uncHdr (h : s.canReadRaw 12 = true) :
    exec .uncHdr s =
      .next (({ s.skipRaw 12 with
        dec := { s.dec with r0 := s.rawWord 0, r1 := s.rawWord 4, r2 := s.rawWord 8 } } : State).goto .mainLoop) := by
  have h8 := canReadRaw_mono h (show 8 ≤ 12 by omega)
  have hskip : (s.skipRaw 8).skipRaw 4 = s.skipRaw 12 := skipRaw_skipRaw h8
  have hword : (s.skipRaw 8).rawWord 0 = s.rawWord 8 := rawWord_skip h8 0
  rw [exec_uncHdr_eq hp h8, ← hskip, ← hword]
  exact complete_storeRaw32 (s := s.afterTwoOffsets) (canReadRaw_skip (m := 8) h) _ _

/-- A chunk that ends inside the third offset leaves R2 as it was. -/
theorem exec_uncHdr_truncated (hc : ChunkFits s) (h : s.canReadRaw 8 = true)
    (hend : s.chunk.length < s.cur.inPos.toNat + 12) :
    ∃ p u, exec .uncHdr s = .next (u.enterFault .truncatedInput p) ∧ OnlyCur s.afterTwoOffsets u := by
  have hpos : s.afterTwoOffsets.cur.inPos.toNat = s.cur.inPos.toNat + 8 := skipRaw_inPos h
  have hthere := (canReadRaw_iff.1 h).1
  have hwithin : EndsWithin 4 s.afterTwoOffsets := by
    refine ⟨hc, ?_, ?_⟩ <;> rw [hpos]
    · exact hthere
    · exact hend
  obtain ⟨p, u, hu, hcur⟩ := readRaw32_truncates hwithin
  exact ⟨p, u, (exec_uncHdr_eq hp h).trans (complete_raise (M.bind_error hu)), hcur⟩

end uncHdr

/-- Settles O26: the offsets are the three raw words, and where the third is not there the first two are stored. -/
theorem uncompressedHeaderLoadsOffsets : Obligations.UncompressedHeaderLoadsOffsets := by
  refine fun s hp => ⟨fun h => ⟨_, exec_uncHdr hp h, fun k hk => ?_, ?_⟩, fun hc h hend => ?_⟩
  · interval_cases k <;> exact rawWord_toNat s _
  · rw [skipRaw_eq h]
    rfl
  · obtain ⟨p, u, hu, hcur⟩ := exec_uncHdr_truncated hp hc h hend
    exact ⟨_, hu, rfl, rfl, by rw [State.enterFault_dec, hcur]; rfl⟩

end Sys2Proof.Machine
end

section
/-! SUPPORT. What headers, length fields, pre-tree elements and raw elements leave alone. The frame of an instruction is a
view of the state: the state with the elements that may change taken from the instruction's own result. -/

namespace Sys2Proof.Machine

variable {α β γ : Type}

/-! ### From an operation to its frame -/

/-- A view together with the status registers and the replies, which an operation that does not end leaves. -/
def State.inProgress (f : State → γ) (s : State) : γ × StatusRegs × List Reply := (f s, s.stat, s.replies)

/-- The operation leaves the view, the status and the replies. -/
abbrev LeavesInProgress (f : State → γ) (m : M α) : Prop := Leaves (State.inProgress f) m

/-- The status and the replies stay, or the status is FAULTED. -/
def StaysOrFaults (s t : State) : Prop := t.stat = s.stat ∧ t.replies = s.replies ∨ t.stat.status = .faulted

/-- What an operation in progress leaves, its completion leaves, but for the status and the replies of an error. -/
theorem LeavesInProgress.complete {f : State → γ} {m : M Unit} {s t : State} (hm : LeavesInProgress f m)
    (hf : ∀ u e p, f (u.enterFault e p) = f u) (h : complete m s = .next t) : f t = f s ∧ StaysOrFaults s t := by
  have hs := hm s
  rcases complete_eq_next h with hr | ⟨e, p, u, hr, rfl⟩
  all_goals
    rw [hr] at hs
    simp only [Same, State.inProgress, M.finalState_ok, M.finalState_error, Prod.mk.injEq] at hs
    obtain ⟨hview, hstat, hreplies⟩ := hs
  · exact ⟨hview, .inl ⟨hstat, hreplies⟩⟩
  · exact ⟨(hf u e p).trans hview, .inr rfl⟩

/-- The result is the frame `f` of what was there, the status and the replies stay but for an error, and every byte of
the window reads as before. -/
def Framed (f : State → State) (s t : State) : Prop :=
  t = f s ∧ StaysOrFaults s t ∧ ∀ a, t.windowByte a = s.windowByte a

/-- A view that is a frame: it takes what may change from the result, and nothing of the window. -/
theorem Framed.of_view {f : State → State} {s t : State} (ht : f t = t) (hw : ∀ a, (f s).windowByte a = s.windowByte a)
    (h : f t = f s ∧ StaysOrFaults s t) : Framed f s t := by
  obtain ⟨hview, hstat⟩ := h
  have heq : t = f s := ht.symm.trans hview
  exact ⟨heq, hstat, fun a => (congrArg (State.windowByte · a) heq).trans (hw a)⟩

/-- Two header fields, what is made of them, and what follows (R170, R172). -/
theorem leaves_twoFields {f : State → γ} (hcur : ∀ s c, f { s with cur := c } = f s) {m n : Nat}
    {upd : BitVec m → BitVec n → State → State} (hupd : ∀ a b s, f (upd a b s) = f s) :
    Leaves f (do let a ← readBits m; let b ← readBits n; modify (upd a b)) :=
  (Leaves.of_onlyCur hcur (readBits_keeps m)).bind fun a => (Leaves.of_onlyCur hcur (readBits_keeps n)).bind fun b =>
    Leaves.modify (hupd a b)

namespace Leaves

variable {f : State → γ}

theorem atPhase (p : Phase) : Leaves f (atPhase p) := of_state (guards_keep_state.2.1 p)

theorem atPreLens : Leaves f atPreLens := of_state guards_keep_state.2.2.2.2.1

theorem blockHeader (hcur : ∀ s c, f { s with cur := c } = f s) (hset : ∀ s t n, f (State.setBlock s t n) = f s)
    (t : BitVec 3) : Leaves f (blockHeader t) :=
  (atPhase _).bind fun _ => leaves_twoFields hcur fun _ _ s => hset s t _

theorem readAlignedLens (hcur : ∀ s c, f { s with cur := c } = f s) (hset : ∀ s m, f (State.setAlignedLens s m) = f s) :
    ∀ n i, Leaves f (readAlignedLens i n)
  | 0, _ => pure _
  | n + 1, i => (of_onlyCur hcur (readBits_keeps 3)).bind fun _ => bind (modify fun s => hset s _) fun _ =>
    readAlignedLens hcur hset n (i + 1)

theorem readPreLens (hcur : ∀ s c, f { s with cur := c } = f s) (hset : ∀ s m, f (State.setPreLens s m) = f s) :
    ∀ n i, Leaves f (readPreLens i n)
  | 0, _ => pure _
  | n + 1, i => (of_onlyCur hcur (readBits_keeps 4)).bind fun _ => bind (modify fun s => hset s _) fun _ =>
    readPreLens hcur hset n (i + 1)

/-- A length array is read, its table built, and the table stored. -/
theorem build_set {w n : Nat} {arr : State → Cells w} {upd : State → DecodeTable → State}
    (hupd : ∀ s t, f (upd s t) = f s) :
    Leaves f (do let s ← (MonadState.get : M State); let t ← build (arr s) n; set (upd s t)) :=
  Keeps.get_bind fun s => by
    rw [EStateM.run_bind]
    cases hb : buildTable (codeLens (arr s) n) with
    | ok t => rw [build_ok hb]; exact hupd s t
    | error c => rw [build_raise hb]; rfl

end Leaves

/-! ### Stream and block headers -/

/-- What a stream header may change, from `t`. -/
def State.streamHeaderFrame (t s : State) : State :=
  { s with
    cur := t.cur, phase := t.phase, stat := t.stat, replies := t.replies
    dec := { s.dec with e8FileSize := t.dec.e8FileSize, headerRead := t.dec.headerRead } }

/-- What a block header may change, from `t`. -/
def State.blockHeaderFrame (t s : State) : State :=
  { s with
    cur := t.cur, phase := t.phase, stat := t.stat, replies := t.replies
    dec :=
      { s.dec with
        blockType := t.dec.blockType, blockLength := t.dec.blockLength, blockRemaining := t.dec.blockRemaining
        e8Started := t.dec.e8Started } }

theorem streamHeader_framed {i : Instr} {s t : State} (hi : i = .hdrNoE8 ∨ i = .hdrE8) (h : exec i s = .next t) :
    Framed t.streamHeaderFrame s t := by
  refine .of_view rfl (fun _ => rfl) ?_
  rcases hi with rfl | rfl
  all_goals refine LeavesInProgress.complete ?_ (fun _ _ _ => rfl) h
  · exact (Leaves.atPhase _).bind fun _ => .modify fun _ => rfl
  · exact (Leaves.atPhase _).bind fun _ => leaves_twoFields (fun _ _ => rfl) fun _ _ _ => rfl

/-- A block header but UNCOMPRESSED leaves `e8_started` too. -/
theorem plainBlockHeader_view {i : Instr} {s t : State}
    (hi : i = .blkVerbatim ∨ i = .blkAligned ∨ i = .blkInvalid0 ∨ ∃ ty, i = .blkInvalid4to7 ty)
    (h : exec i s = .next t) :
    (t, t.dec.e8Started) = (t.blockHeaderFrame s, s.dec.e8Started) ∧ StaysOrFaults s t := by
  have hheader (ty : BitVec 3) :
      LeavesInProgress (fun u => (t.blockHeaderFrame u, u.dec.e8Started)) (blockHeader ty) :=
    .blockHeader (fun _ _ => rfl) (fun _ _ _ => rfl) ty
  rcases hi with rfl | rfl | rfl | ⟨ty, rfl⟩
  all_goals refine LeavesInProgress.complete (Leaves.bind (hheader _) fun _ => ?_) (fun _ _ _ => rfl) h
  · exact .modify fun _ => rfl
  · exact .modify fun _ => rfl
  · exact .throw _
  · exact .throw _

theorem blkUncompressed_framed {s t : State} (h : exec .blkUncompressed s = .next t) :
    Framed t.blockHeaderFrame s t := by
  refine .of_view rfl (fun _ => rfl) (LeavesInProgress.complete ?_ (fun _ _ _ => rfl) h)
  exact (Leaves.blockHeader (fun _ _ => rfl) (fun _ _ _ => rfl) _).bind fun _ =>
    Leaves.bind (.modify fun _ => rfl) fun _ =>
      (Leaves.of_onlyCur (fun _ _ => rfl) alignToRaw_keeps).bind fun _ => .modify fun _ => rfl

/-- Settles O30: the stream header, then the block headers, UNCOMPRESSED apart. -/
theorem headersLeaveTheRestAlone : Obligations.HeadersLeaveTheRestAlone := by
  refine ⟨fun s t i hi h => streamHeader_framed hi h, fun s t i hi h => ?_⟩
  by_cases hu : i = .blkUncompressed
  · subst hu
    obtain ⟨heq, hrest⟩ := blkUncompressed_framed h
    exact ⟨heq, fun hne => absurd rfl hne, hrest⟩
  · obtain ⟨hview, hstat⟩ := plainBlockHeader_view (by tauto) h
    obtain ⟨heq, hstarted⟩ := Prod.mk.inj hview
    obtain ⟨-, hrest⟩ := Framed.of_view (f := t.blockHeaderFrame) (s := s) rfl (fun _ => rfl) ⟨heq, hstat⟩
    exact ⟨heq, fun _ => hstarted, hrest⟩

/-! ### Length fields and tables -/

/-- What ALN.LENS may change, from `t`. -/
def State.alignedLensFrame (t s : State) : State :=
  { s with
    cur := t.cur, phase := t.phase, stat := t.stat, replies := t.replies
    dec := { s.dec with alignedLen := t.dec.alignedLen, alignedTable := t.dec.alignedTable } }

/-- What PRE.LENS may change, from `t`. -/
def State.preLensFrame (t s : State) : State :=
  { s with
    cur := t.cur, phase := t.phase, stat := t.stat, replies := t.replies
    dec := { s.dec with preLen := t.dec.preLen, preTable := t.dec.preTable } }

theorem alnLens_framed {s t : State} (h : exec .alnLens s = .next t) : Framed t.alignedLensFrame s t := by
  refine .of_view rfl (fun _ => rfl) (LeavesInProgress.complete ?_ (fun _ _ _ => rfl) h)
  exact (Leaves.atPhase _).bind fun _ => (Leaves.readAlignedLens (fun _ _ => rfl) (fun _ _ => rfl) 8 0).bind fun _ =>
    .build_set fun _ _ => rfl

theorem preLens_framed {s t : State} (h : exec .preLens s = .next t) : Framed t.preLensFrame s t := by
  refine .of_view rfl (fun _ => rfl) (LeavesInProgress.complete ?_ (fun _ _ _ => rfl) h)
  exact Leaves.atPreLens.bind fun _ => (Leaves.readPreLens (fun _ _ => rfl) (fun _ _ => rfl) 20 0).bind fun _ =>
    .build_set fun _ _ => rfl

/-! ### The elements of a record -/

/-- A fill leaves every entry outside it, of an array in canonical form or not. -/
theorem readCell_fillCells_outside {w : Nat} {bg : Option (BitVec w)} {v : BitVec w} {a : Nat} :
    ∀ (n : Nat) {m : Cells w} {x : Nat}, a < x ∨ x + n ≤ a → readCell bg (fillCells bg m x n v) a = readCell bg m a
  | 0, _, _, _ => rfl
  | n + 1, m, x, h => by
    have ih := readCell_fillCells_outside (bg := bg) (v := v) (a := a) n (m := writeCell bg m x v) (x := x + 1) (by omega)
    exact ih.trans (readCell_writeCell_other (by omega) v)

/-- What a record element may change, from `t`. -/
def State.recordFrame (t s : State) : State :=
  { s with
    cur := t.cur, phase := t.phase, stat := t.stat, replies := t.replies
    dec := { s.dec with mainLen := t.dec.mainLen, lengthLen := t.dec.lengthLen } }

/-- The array a record does not write. -/
def State.otherLens (s : State) : Record → Cells 5
  | .main1 => s.dec.lengthLen
  | .main2 => s.dec.lengthLen
  | .length => s.dec.mainLen

/-- The lengths of the record's array before index `x` and from 51 entries on. -/
def State.lensOutside (s : State) (r : Record) (x : Nat) (y : { y // y < x ∨ x + 51 ≤ y }) : BitVec 5 :=
  lenAt (s.recordLens r) y

/-- What an element of record `r` at index `x` leaves: all but what it may change, the other array, the lengths outside
its 51 entries. -/
def State.recordView (t : State) (r : Record) (x : Nat) (s : State) :
    State × Cells 5 × ({ y // y < x ∨ x + 51 ≤ y } → BitVec 5) :=
  (t.recordFrame s, s.otherLens r, s.lensOutside r x)

theorem recordView_writeLens (t s : State) (r : Record) (x : Nat) {n : Nat} (hn : n ≤ 51) (v : BitVec 5) :
    t.recordView r x (s.writeLens r x n v) = t.recordView r x s := by
  have hout : (s.writeLens r x n v).lensOutside r x = s.lensOutside r x := by
    funext ⟨y, hy⟩
    show lenAt _ y = lenAt _ y
    rw [State.writeLens_recordLens, lenAt, lenAt, readCell_fillCells_outside n (by omega)]
  rw [State.recordView, hout]
  cases r <;> rfl

theorem complete_inRecord {f : Record × Nat → M Unit} {s t : State} {r : Record} {x : Nat}
    (hp : s.phase = .record r x) (h : complete (inRecord >>= f) s = .next t) : complete (f (r, x)) s = .next t := by
  by_cases hx : x < r.last s.dec.wb
  · rwa [complete_bind (inRecord_ok hp hx)] at h
  · have hr : inRecord.run s = .error (.refuse .outsideGrammar) s := by simp [inRecord, hp, hx]
    rw [complete_refuse (M.bind_error hr)] at h
    cases h

/-- An element of record `r` at index `x` writes the record's array from `x` on, or raises. -/
theorem preElement_view {i : Instr} {s t : State} {r : Record} {x : Nat} (hp : s.phase = .record r x)
    (hi : (∃ z, i = .preDelta z) ∨ i = .preZrun4 ∨ i = .preZrun20 ∨ i = .preSame) (h : exec i s = .next t) :
    t.recordView r x t = t.recordView r x s ∧ StaysOrFaults s t := by
  have hcur {α : Type} {m : M α} (hm : Keeps OnlyCur m) : LeavesInProgress (t.recordView r x) m :=
    .of_onlyCur (fun s c => by cases r <;> rfl) hm
  have hwrite {n : Nat} (hn : n ≤ 51) (v : State → BitVec 5) :
      LeavesInProgress (t.recordView r x) (modify fun s => s.writeLens r x n (v s)) :=
    .modify fun s => by
      rw [State.inProgress, recordView_writeLens t s r x hn, State.writeLens_stat, State.writeLens_replies]
      rfl
  have hfault (u : State) (e : Err) (p : Option Nat) : t.recordView r x (u.enterFault e p) = t.recordView r x u := by
    cases r <;> rfl
  rcases hi with ⟨z, rfl⟩ | rfl | rfl | rfl
  all_goals refine LeavesInProgress.complete ?_ hfault (complete_inRecord hp h)
  · exact hwrite (by omega) _
  · exact (hcur (readBits_keeps 4)).bind fun y => hwrite (show 4 + y.toNat ≤ 51 by omega) _
  · exact (hcur (readBits_keeps 5)).bind fun y => hwrite (show 20 + y.toNat ≤ 51 by omega) _
  · exact (hcur (readBits_keeps 1)).bind fun y => Leaves.get.bind fun _ => (hcur (decodeSym_keeps _)).bind fun _ =>
      .ite (Leaves.raise_bind _ _) (hwrite (show 4 + y.toNat ≤ 51 by omega) _)

/-- Settles O31: the length fields with their tables, then the elements of a record. -/
theorem treeElementsLeaveTheRestAlone : Obligations.TreeElementsLeaveTheRestAlone := by
  refine ⟨fun s t => alnLens_framed, fun s t => preLens_framed, fun s t r x i hp hi h => ?_⟩
  obtain ⟨hview, hstat⟩ := preElement_view hp hi h
  simp only [State.recordView, Prod.mk.injEq] at hview
  obtain ⟨heq, hother, hout⟩ := hview
  obtain ⟨heq, hrest⟩ := Framed.of_view (f := t.recordFrame) (s := s) rfl (fun _ => rfl) ⟨heq, hstat⟩
  refine ⟨heq, fun hr => ?_, fun hr => ?_, fun _ y hy => congrFun hout ⟨y, hy⟩, hrest⟩
  · subst hr
    exact hother
  · cases r with
    | main1 | main2 => exact hother
    | length => exact absurd rfl hr

/-! ### Raw elements -/

/-- What a pad byte may change, from `t`. -/
def State.padFrame (t s : State) : State :=
  { s with cur := t.cur, phase := t.phase, stat := t.stat, replies := t.replies }

/-- What the repeated offsets of an UNCOMPRESSED header may change, from `t`. -/
def State.offsetsFrame (t s : State) : State :=
  { s with
    cur := t.cur, phase := t.phase, stat := t.stat, replies := t.replies
    dec := { s.dec with r0 := t.dec.r0, r1 := t.dec.r1, r2 := t.dec.r2 } }

theorem uncPad_framed {s t : State} (h : exec .uncPad s = .next t) : Framed t.padFrame s t := by
  refine .of_view rfl (fun _ => rfl) (LeavesInProgress.complete ?_ (fun _ _ _ => rfl) h)
  have hcur {α : Type} {m : M α} (hm : Keeps OnlyCur m) : LeavesInProgress t.padFrame m :=
    .of_onlyCur (fun _ _ => rfl) hm
  exact (Leaves.atPhase _).bind fun _ => (hcur readRawByte_keeps).bind fun _ => (hcur initBits_keeps).bind fun _ =>
    .modify fun _ => rfl

theorem uncHdr_framed {s t : State} (h : exec .uncHdr s = .next t) : Framed t.offsetsFrame s t := by
  refine .of_view rfl (fun _ => rfl) (LeavesInProgress.complete ?_ (fun _ _ _ => rfl) h)
  have hload {upd : Word → State → State} {m : M Unit}
      (hupd : ∀ a s, State.inProgress t.offsetsFrame (upd a s) = State.inProgress t.offsetsFrame s)
      (hm : LeavesInProgress t.offsetsFrame m) :
      LeavesInProgress t.offsetsFrame (do let a ← readRaw32; modify (upd a); m) :=
    (Leaves.of_onlyCur (fun _ _ => rfl) readRaw32_keeps).bind fun a => Leaves.bind (.modify (hupd a)) fun _ => hm
  exact (Leaves.atPhase _).bind fun _ => hload (fun _ _ => rfl) <| hload (fun _ _ => rfl) <| hload (fun _ _ => rfl) <|
    .modify fun _ => rfl

/-- What follows an operation that moves the cursor alone is completed from where it ends, or the operation raises. -/
theorem complete_cursor_bind {m : M α} {f : α → M Unit} {s t : State} (hm : Keeps OnlyCur m)
    (h : complete (m >>= f) s = .next t) :
    ∃ u, OnlyCur s u ∧ ((∃ a, complete (f a) u = .next t) ∨ ∃ e p, t = u.enterFault e p) := by
  have hs := hm s
  cases hr : m.run s with
  | ok a u =>
    rw [hr] at hs
    rw [complete_bind hr] at h
    exact ⟨u, hs, .inl ⟨a, h⟩⟩
  | error stop u =>
    rw [hr] at hs
    rcases complete_eq_next h with hv | ⟨e, p, v, hv, rfl⟩
    · cases (M.bind_error hr).symm.trans hv
    · cases (M.bind_error hr).symm.trans hv
      exact ⟨_, hs, .inr ⟨e, p, rfl⟩⟩

theorem inRun_keeps (ok : BitVec 3 → Bool) : Keeps OnlyCur (inRun ok) := fun s => by
  rw [guards_keep_state.2.2.1 ok s]
  exact OnlyCur.refl s

/-- A window write that answers stores its byte; it raises no error of the spec. -/
theorem winWrite_next {v : Byte} {f : Unit → M Unit} {s t : State} (h : complete (winWrite v >>= f) s = .next t) :
    complete (f ()) (s.putByte v) = .next t := by
  by_cases hw : s.dec.windowPos.toNat < windowSize s.dec.wb
  · rwa [complete_bind (winWrite_ok hw v)] at h
  · have hr : (winWrite v).run s = .error (.fault (.windowAddress s.dec.windowPos.toNat)) s := by
      rw [winWrite, M.bind_ok (EStateM.run_get s), if_pos (not_lt.1 hw)]
      rfl
    rw [complete_fault (M.bind_error hr)] at h
    cases h

/-- A raw byte moves the cursor, and is stored and taken off the run, or there is none. -/
theorem exec_uncByte_cases {s t : State} (h : exec .uncByte s = .next t) :
    ∃ u, OnlyCur s u ∧ ((∃ v, t = (u.putByte v).spendRun 1) ∨ ∃ e p, t = u.enterFault e p) := by
  obtain ⟨u, hu, ⟨_, h⟩ | hfault⟩ := complete_cursor_bind (inRun_keeps _) h
  · obtain ⟨w, hw, ⟨v, h⟩ | hfault⟩ := complete_cursor_bind readRawByte_keeps h
    · cases winWrite_next h
      exact ⟨w, hu.trans _ _ _ hw, .inl ⟨v, rfl⟩⟩
    · exact ⟨w, hu.trans _ _ _ hw, .inr hfault⟩
  · exact ⟨u, hu, .inr hfault⟩

/-- Settles O33: the pad byte, the repeated offsets, and the byte of an UNCOMPRESSED block. -/
theorem rawElementsLeaveTheRestAlone : Obligations.RawElementsLeaveTheRestAlone := by
  refine ⟨fun s t => uncPad_framed, fun s t => uncHdr_framed, fun s t h => ?_⟩
  obtain ⟨u, hu, hcases⟩ := exec_uncByte_cases h
  obtain ⟨c, rfl⟩ : ∃ c, u = { s with cur := c } := ⟨u.cur, hu⟩
  rcases hcases with ⟨v, rfl⟩ | ⟨e, p, rfl⟩
  · exact ⟨rfl, .inl ⟨rfl, rfl⟩, fun a ha => windowByte_putByte_other (s := { s with cur := c }) ha v⟩
  · exact ⟨rfl, .inr rfl, fun _ _ => rfl⟩

end Sys2Proof.Machine
end

section
/-! SUPPORT. Literals, matches and raw bytes (spec/44_symbols.md R201 to R220): every form of a match comes down to the
offset step of its slot, and the offset step to the checks and the copy from a state whose bits are read and whose
repeated offsets are updated. -/

namespace Sys2Proof.Machine

/-! ### One byte -/

/-- The next element of the same run. -/
theorem spendRun_of_runLoop {s : State} (hp : s.phase = .runLoop) (n : Nat) :
    s.spendRun n = { s with run := s.run - n } := by
  rw [State.spendRun, State.goto, ← hp]

/-- A byte is stored and taken off the run (spec/20_memory.md R55, spec/42_commands.md R144). -/
theorem complete_storeByte {s : State} (hw : s.dec.windowPos.toNat < windowSize s.dec.wb) (v : Byte) :
    complete (do winWrite v; modify fun s => s.spendRun 1) s = .next ((s.putByte v).spendRun 1) :=
  (complete_bind (winWrite_ok hw v)).trans rfl

theorem codedBlock_of_types {t : BitVec 3} (h : t = 1 ∨ t = 2) : codedBlock t = true := by
  simpa [codedBlock] using h

/-- Settles O17: the byte is stored at the cursor and one byte of the run is spent. -/
theorem literalWritesItsByte : Obligations.LiteralWritesItsByte := by
  intro s b hp hr hb hw hm
  have hexec : exec (.mainLit b) s = .next ((s.putByte b).spendRun 1) :=
    (complete_bind (inRun_ok hp hr (codedBlock_of_types hb))).trans (complete_storeByte hw b)
  refine ⟨_, hexec, windowByte_putByte_same hm.1 b, fun a ha => windowByte_putByte_other ha b, ?_⟩
  rw [spendRun_of_runLoop (s := s.putByte b) hp]
  rfl

/-- Settles O27: the raw byte is read and stored, or there is none. -/
theorem rawByteIsCopied : Obligations.RawByteIsCopied := by
  intro s hp hr hb
  have hrun : (inRun fun t => !codedBlock t).run s = .ok () s := inRun_ok hp hr (by rw [hb]; rfl)
  refine ⟨fun hraw hw hm => ?_, fun hend => ?_⟩
  · have hexec : exec .uncByte s = .next (((s.skipRaw 1).putByte (s.rawByte 0)).spendRun 1) :=
      (complete_bind hrun).trans <| (complete_bind (readRawByte_ok hraw)).trans <|
        complete_storeByte (s := s.skipRaw 1) hw _
    refine ⟨_, hexec, windowByte_putByte_same (s := s.skipRaw 1) hm.1 _,
      fun a ha => windowByte_putByte_other (s := s.skipRaw 1) ha _, ?_⟩
    rw [spendRun_of_runLoop (s := (s.skipRaw 1).putByte (s.rawByte 0)) hp, skipRaw_eq hraw]
    rfl
  · have hexec : exec .uncByte s = .next (s.enterFault .truncatedInput (some (8 * s.cur.inPos.toNat))) :=
      (complete_bind hrun).trans (complete_raise (M.bind_error (readRawByte_raise hend)))
    exact ⟨_, hexec, rfl, rfl, rfl, rfl⟩

/-! ### From an element to the offset step of its slot (R202, R203) -/

theorem afterHeader_of_ne {lh : BitVec 3} (h : lh ≠ 7) (slot : BitVec 6) (step : Nat → M Unit) :
    afterHeader slot lh step = step (lh.toNat + 2) := if_neg h

/-- A slot from 4 on takes the step of its block's type (R209, R210). -/
theorem complete_offsetStep_of_four_le {s : State} {slot : BitVec 6} (h : 4 ≤ slot.toNat) (length : Nat) :
    complete (offsetStep slot length) s =
      complete (if s.dec.blockType = 1 then matchVerb slot.toNat length
        else if s.dec.blockType = 2 then matchAlgn slot.toNat length else outsideGrammar) s := by
  have hne (n : BitVec 6) (hn : n.toNat < 4) : slot ≠ n := by
    rintro rfl
    omega
  refine (complete_bind (EStateM.run_get s)).trans ?_
  rw [if_neg (hne 0 (by decide)), if_neg (hne 1 (by decide)), if_neg (hne 2 (by decide)), if_neg (hne 3 (by decide))]

/-- With lh < 7 the main-tree element of a match is the offset step of its slot (R202, R204). -/
theorem exec_matchElement {s : State} {slot : BitVec 6} {lh : BitVec 3} {i : Instr} (hi : MatchElement s slot lh i)
    (hp : s.phase = .runLoop) (hr : 0 < s.run) (hlh : lh ≠ 7) :
    exec i s = complete (offsetStep slot (lh.toNat + 2)) s := by
  have hstep {ok : BitVec 3 → Bool} (hb : ok s.dec.blockType = true) (slot : BitVec 6) (step : Nat → M Unit) :
      complete (inRun ok >>= fun _ => afterHeader slot lh step) s = complete (step (lh.toNat + 2)) s := by
    rw [complete_bind (inRun_ok hp hr hb), afterHeader_of_ne hlh]
  rcases hi with ⟨hslot, hb⟩ | ⟨h4, ⟨hb, rfl⟩ | ⟨hb, rfl⟩⟩
  · rcases hslot with ⟨rfl, rfl⟩ | ⟨rfl, rfl⟩ | ⟨rfl, rfl⟩ | ⟨rfl, rfl⟩
    all_goals exact hstep (codedBlock_of_types hb) _ _
  · rw [complete_offsetStep_of_four_le h4, if_pos hb]
    exact hstep (decide_eq_true hb) _ _
  · rw [complete_offsetStep_of_four_le h4, if_neg (by rw [hb]; decide), if_pos hb]
    exact hstep (decide_eq_true hb) _ _

/-- A length footer is the offset step of the pending slot, of a length from 9 on (R203, R204). -/
theorem exec_lenFooter {s : State} {slot : BitVec 6} (hp : s.phase = .footer slot) (f : BitVec 8) :
    exec (.lenFooter f) s = complete (offsetStep slot (7 + f.toNat + 2)) s := by
  refine (complete_bind (EStateM.run_get s)).trans ?_
  simp only [hp]
  rfl

/-- An aligned symbol completes the offset of a new match (R211). -/
theorem exec_alnSym {s : State} {length base : Nat} (hp : s.phase = .alignedSym length base) (a : BitVec 3) :
    exec (.alnSym a) s = complete (matchNew length (base + a.toNat)) s := by
  refine (complete_bind (EStateM.run_get s)).trans ?_
  simp only [hp]

/-- Settles O19: the footer's phase is all that a match header with lh = 7 sets. -/
theorem matchHeaderAwaitsFooter : Obligations.MatchHeaderAwaitsFooter := by
  intro s slot hp hr
  have hfooter {ok : BitVec 3 → Bool} (hb : ok s.dec.blockType = true) (slot : BitVec 6) (step : Nat → M Unit) :
      complete (inRun ok >>= fun _ => afterHeader slot 7 step) s = .next { s with phase := .footer slot } :=
    complete_bind (inRun_ok hp hr hb)
  refine ⟨fun hb => ?_, fun hb => hfooter (decide_eq_true hb) _ _, fun hb => hfooter (decide_eq_true hb) _ _⟩
  have hcoded := codedBlock_of_types hb
  exact ⟨hfooter hcoded _ _, hfooter hcoded _ _, hfooter hcoded _ _, hfooter hcoded _ _⟩

/-! ### From the offset step to the checks and the copy (R205 to R210, R216) -/

/-- At most the cursor and the repeated offsets have changed. -/
def OffsetsMoved (s u : State) : Prop :=
  ∃ c r0 r1 r2, u = { s with cur := c, dec := { s.dec with r0 := r0, r1 := r1, r2 := r2 } }

/-- The offset step of the slot takes this offset: the match is checked and copied from `u`. -/
structure StepsTo (s : State) (slot : BitVec 6) (offset : Word) (u : State) : Prop where
  finishes : ∀ length, complete (offsetStep slot length) s = complete (finishMatch length offset) u
  moved : OffsetsMoved s u

namespace StepsTo

variable {s u : State} {slot : BitVec 6} {offset : Word} {length : Nat}

theorem slot_zero : StepsTo s 0 s.dec.r0 s := ⟨fun _ => rfl, _, _, _, _, rfl⟩

theorem slot_one : StepsTo s 1 s.dec.r1 s.swapR1 := ⟨fun _ => rfl, _, _, _, _, rfl⟩

theorem slot_two : StepsTo s 2 s.dec.r2 s.swapR2 := ⟨fun _ => rfl, _, _, _, _, rfl⟩

theorem slot_three : StepsTo s 3 1 (s.inserted 1) :=
  ⟨fun length => congrArg (fun w => complete (finishMatch length w) (s.pushOffset w)) (narrow_word 1), _, _, _, _, rfl⟩

/-- The offset bits are read and the offset inserted (R209, and R210 for fewer than 3 bits). -/
theorem slot_bits (h4 : 4 ≤ slot.toNat)
    (hb : s.dec.blockType = 1 ∨ s.dec.blockType = 2 ∧ extraBits slot.toNat < 3)
    (hread : s.canRead (extraBits slot.toNat) = true)
    (hoff : offset.toNat = positionBase slot.toNat - 2 + (s.field 0 (extraBits slot.toNat)).toNat) :
    StepsTo s slot offset ((s.skip (extraBits slot.toNat)).inserted offset) := by
  refine ⟨fun length => ?_, _, _, _, _, rfl⟩
  have hverb : complete (offsetStep slot length) s = complete (matchVerb slot.toNat length) s := by
    rw [complete_offsetStep_of_four_le h4]
    rcases hb with hb | ⟨hb, hfew⟩
    · rw [if_pos hb]
    · rw [if_neg (by rw [hb]; decide), if_pos hb, matchAlgn_eq, if_neg (by omega), if_neg (by omega)]
  rw [hverb, matchVerb, complete_bind (readBits_ok hread), verbOffset, ← hoff, matchNew, narrow_word]
  rfl

theorem of_takesOffset (h : TakesOffset s slot.toNat offset u) : StepsTo s slot offset u := by
  rcases h with ⟨hs, rfl, rfl⟩ | ⟨hs, rfl, rfl⟩ | ⟨hs, rfl, rfl⟩ | ⟨hs, rfl, rfl⟩ | ⟨h4, -, hb, hread, hoff, rfl⟩
  · rw [BitVec.eq_of_toNat_eq (y := 0) hs]
    exact slot_zero
  · rw [BitVec.eq_of_toNat_eq (y := 1) hs]
    exact slot_one
  · rw [BitVec.eq_of_toNat_eq (y := 2) hs]
    exact slot_two
  · rw [BitVec.eq_of_toNat_eq (y := 3) hs]
    exact slot_three
  · exact slot_bits h4 hb hread hoff

/-- A match that passes the checks is copied (R215). -/
theorem copies (h : StepsTo s slot offset u) (hr : WindowInRange s) (hm : MemoryCanonical s)
    (hl : MatchLegal s length offset) :
    ∃ t, complete (offsetStep slot length) s = .next t ∧ MatchLeaves u length offset t := by
  have hu : WindowInRange u ∧ MemoryCanonical u ∧ MatchLegal u length offset := by
    obtain ⟨c, r0, r1, r2, rfl⟩ := h.moved
    exact ⟨hr, hm, hl⟩
  obtain ⟨hru, hmu, hlu⟩ := hu
  obtain ⟨t, ht, hleaves⟩ := finishMatch_ok hru hmu hlu
  exact ⟨t, (h.finishes length).trans (complete_ok ht), hleaves⟩

/-- A match that fails a check takes its error after the offset step (R216). -/
theorem takesError {e : Err} (h : StepsTo s slot offset u) (hf : MatchFails s length offset e) :
    TakesError (complete (offsetStep slot length) s) u e u.cur.position := by
  have hu : MatchFails u length offset e := by
    obtain ⟨c, r0, r1, r2, rfl⟩ := h.moved
    exact hf
  rw [h.finishes length]
  exact takesError_of_complete (finishMatch_raise hu)

end StepsTo

theorem canRead_zero (s : State) : s.canRead 0 = true :=
  canRead_iff.2 ⟨fun _ hi => absurd hi (Nat.not_lt_zero _), fun _ => rfl, s.cur.c.isLt⟩

/-- In an ALIGNED block a slot with 3 or more extra bits has its verbatim bits read and awaits the aligned symbol
(R210). -/
theorem complete_offsetStep_aligned {s : State} {slot : BitVec 6} (h4 : 4 ≤ slot.toNat) (hb : s.dec.blockType = 2)
    (hmany : 3 ≤ extraBits slot.toNat) (hread : s.canRead (extraBits slot.toNat - 3) = true) (length : Nat) :
    complete (offsetStep slot length) s =
      .next ((s.skip (extraBits slot.toNat - 3)).goto
        (.alignedSym length (alignedBase slot.toNat (s.field 0 (extraBits slot.toNat - 3)).toNat))) := by
  rw [complete_offsetStep_of_four_le h4, if_neg (by rw [hb]; decide), if_pos hb, matchAlgn_eq]
  by_cases h3 : 3 < extraBits slot.toNat
  · rw [if_pos h3, complete_bind (readBits_ok hread)]
    rfl
  · rw [if_neg h3, if_pos (by omega), show extraBits slot.toNat - 3 = 0 by omega, skip_zero]
    rfl

/-! ### The matches -/

theorem pos_run_of_legal {s : State} {n : Nat} {offset : Word} (h : MatchLegal s (n + 2) offset) : 0 < s.run := by
  have := h.2.1
  omega

/-- A match with lh < 7 that passes the checks is copied. -/
theorem exec_matchElement_copies {s u : State} {slot : BitVec 6} {lh : BitVec 3} {i : Instr} {offset : Word}
    (hi : MatchElement s slot lh i) (hp : s.phase = .runLoop) (hlh : lh ≠ 7) (hr : WindowInRange s)
    (hm : MemoryCanonical s) (hu : StepsTo s slot offset u) (hl : MatchLegal s (lh.toNat + 2) offset) :
    ∃ t, exec i s = .next t ∧ MatchLeaves u (lh.toNat + 2) offset t := by
  rw [exec_matchElement hi hp (pos_run_of_legal hl) hlh]
  exact hu.copies hr hm hl

/-- Settles O18: the offset steps of slots 0 to 3. -/
theorem repeatedOffsetMatchCopies : Obligations.RepeatedOffsetMatchCopies := by
  intro s lh hp hb hlh hr hm
  exact
    ⟨exec_matchElement_copies (.inl ⟨.inl ⟨rfl, rfl⟩, hb⟩) hp hlh hr hm .slot_zero,
      exec_matchElement_copies (.inl ⟨.inr (.inl ⟨rfl, rfl⟩), hb⟩) hp hlh hr hm .slot_one,
      exec_matchElement_copies (.inl ⟨.inr (.inr (.inl ⟨rfl, rfl⟩)), hb⟩) hp hlh hr hm .slot_two,
      exec_matchElement_copies (.inl ⟨.inr (.inr (.inr ⟨rfl, rfl⟩)), hb⟩) hp hlh hr hm .slot_three⟩

/-- Settles O20: the offset step of a slot whose bits are all read at once. -/
theorem verbatimMatchCopies : Obligations.VerbatimMatchCopies := by
  intro s slot lh offset hp hb hlh h4 _ hread hoff hr hm hl
  exact exec_matchElement_copies (.inr ⟨h4, .inl ⟨hb, rfl⟩⟩) hp hlh hr hm (.slot_bits h4 (.inl hb) hread hoff) hl

/-- Settles O21: the aligned symbol is awaited after the verbatim bits, or at once, or the bits are all read. -/
theorem alignedMatchTakesOffset : Obligations.AlignedMatchTakesOffset := by
  intro s slot lh hp hrun hb hlh h4 _
  have hi : MatchElement s slot lh (.mainMatchAlgn slot lh) := .inr ⟨h4, .inr ⟨hb, rfl⟩⟩
  refine ⟨fun h3 hread => ?_, fun h3 => ?_, fun offset hfew hread hoff hr hm hl => ?_⟩
  · rw [exec_matchElement hi hp hrun hlh]
    exact complete_offsetStep_aligned h4 hb h3.le hread _
  · have hnone : extraBits slot.toNat - 3 = 0 := by omega
    have haligned := complete_offsetStep_aligned h4 hb h3.ge (hnone ▸ canRead_zero s) (lh.toNat + 2)
    rw [hnone, skip_zero] at haligned
    rw [exec_matchElement hi hp hrun hlh]
    exact haligned
  · exact exec_matchElement_copies hi hp hlh hr hm (.slot_bits h4 (.inr ⟨hb, hfew⟩) hread hoff) hl

/-- Settles O22: the offset step of every slot, with the footer's length. -/
theorem lengthFooterFinishesMatch : Obligations.LengthFooterFinishesMatch := by
  intro s slot f hp hr hm
  rw [exec_lenFooter hp]
  refine ⟨?_, ?_, ?_, ?_, fun offset h4 hb hread hoff => ?_, fun h4 hb hmany hread => ?_⟩
  · rintro rfl
    exact StepsTo.slot_zero.copies hr hm
  · rintro rfl
    exact StepsTo.slot_one.copies hr hm
  · rintro rfl
    exact StepsTo.slot_two.copies hr hm
  · rintro rfl
    exact StepsTo.slot_three.copies hr hm
  · exact (StepsTo.slot_bits h4 hb hread hoff).copies hr hm
  · exact complete_offsetStep_aligned h4 hb hmany hread _

/-- Settles O23: the completed offset is a new one. -/
theorem alignedSymbolFinishesMatch : Obligations.AlignedSymbolFinishesMatch := by
  intro s length base a offset hp hoff hr hm hl
  obtain ⟨t, ht, hleaves⟩ := matchNew_ok hoff hr hm hl
  exact ⟨t, (exec_alnSym hp a).trans (complete_ok ht), hleaves⟩

/-- Settles O24: a main-tree element or a footer fails in its offset step, an aligned symbol with its new offset. -/
theorem matchChecksComeInOrder : Obligations.MatchChecksComeInOrder := by
  refine ⟨fun s u slot offset length e htakes hfails => ?_, fun s length base a offset e hp hoff hfails => ?_⟩
  · have herr := (StepsTo.of_takesOffset htakes).takesError hfails
    refine ⟨fun lh i hp hrun hlh hlen hi => ?_, fun f hp hlen => ?_⟩
    · subst hlen
      rwa [exec_matchElement hi hp hrun hlh]
    · subst hlen
      rwa [exec_lenFooter hp]
  · rw [exec_alnSym hp]
    exact takesError_of_complete (matchNew_raise hoff hfails)

end Sys2Proof.Machine
end

section
/-! SUPPORT. What literals and matches leave alone: a main-tree element moves the cursor and the repeated offsets, then
stores bytes from the write cursor on, and then may raise. -/

namespace Sys2Proof.Machine

variable {α : Type}

/-! ### What is stored -/

/-- From `s` to `t` at most `n` bytes from the write cursor on are stored: only the window, its registers, the run and
the phase may differ, and every other byte reads as before. -/
def Stores (n : Nat) (s t : State) : Prop :=
  (∃ run phase window windowPos written, t =
    { s with
      run := run
      phase := phase
      dec := { s.dec with window := window, windowPos := windowPos, written := written } }) ∧
    ∀ a, a < s.dec.windowPos.toNat ∨ s.dec.windowPos.toNat + n ≤ a → t.windowByte a = s.windowByte a

namespace Stores

variable {n : Nat} {s t : State}

theorem refl (n : Nat) (s : State) : Stores n s s := ⟨⟨_, _, _, _, _, rfl⟩, fun _ _ => rfl⟩

theorem goto (n : Nat) (s : State) (p : Phase) : Stores n s (s.goto p) := ⟨⟨_, _, _, _, _, rfl⟩, fun _ _ => rfl⟩

theorem putByte_one (s : State) (v : Byte) : Stores 1 s (s.putByte v) :=
  ⟨⟨_, _, _, _, _, rfl⟩, fun _ _ => windowByte_putByte_other (by omega) v⟩

/-- A byte at the write cursor, and what is stored from the moved cursor on. -/
theorem putByte {v : Byte} (hs : s.dec.windowPos.toNat + 1 < 2 ^ 22) (h : Stores n (s.putByte v) t) :
    Stores (n + 1) s t := by
  obtain ⟨⟨run, phase, window, windowPos, written, rfl⟩, hout⟩ := h
  refine ⟨⟨_, _, _, _, _, rfl⟩, fun a ha => ?_⟩
  exact (hout a (by rw [putByte_windowPos hs]; omega)).trans (windowByte_putByte_other (by omega) v)

theorem spendRun (h : Stores n s t) (k : Nat) : Stores n s (t.spendRun k) := by
  obtain ⟨⟨run, phase, window, windowPos, written, rfl⟩, hout⟩ := h
  exact ⟨⟨_, _, _, _, _, rfl⟩, hout⟩

end Stores

/-- An operation that leaves the state, and what follows: the whole ends where it started, or where the rest ends. -/
theorem finalState_bind_same {m : M α} {f : α → M Unit} {s : State} {P : State → Prop}
    (hm : M.finalState (m.run s) = s) (hs : P s) (hf : ∀ a, P (M.finalState ((f a).run s))) :
    P (M.finalState ((m >>= f).run s)) := by
  rw [EStateM.run_bind]
  cases hr : m.run s with
  | ok a t =>
    have ht : t = s := by simpa [hr] using hm
    exact ht ▸ hf a
  | error e t =>
    have ht : t = s := by simpa [hr] using hm
    exact ht ▸ hs

/-- A write past the window's end is no byte of the window (spec/20_memory.md R55). -/
theorem winWrite_past_end {s : State} (h : ¬ s.dec.windowPos.toNat < windowSize s.dec.wb) (v : Byte) :
    (winWrite v).run s = .error (.fault (.windowAddress s.dec.windowPos.toNat)) s := by
  rw [winWrite, M.bind_ok (EStateM.run_get s), if_pos (not_lt.1 h)]
  rfl

/-- However far the copy of a match comes, it stores no more than its bytes (R215). -/
theorem copyBytes_stores (offset : Nat) : ∀ (n : Nat) {s : State}, s.dec.wb.toNat ≤ 21 →
    Stores n s (M.finalState ((copyBytes offset n).run s))
  | 0, s, _ => .refl 0 s
  | n + 1, s, hwb => by
    rw [copyBytes, M.bind_ok (EStateM.run_get s)]
    refine finalState_bind_same (winRead_state _) (.refl _ s) fun v => ?_
    by_cases hp : s.dec.windowPos.toNat < windowSize s.dec.wb
    · have hle : windowSize s.dec.wb ≤ 2 ^ 21 := Nat.pow_le_pow_right (by omega) hwb
      rw [M.bind_ok (winWrite_ok hp v)]
      exact (copyBytes_stores offset n (s := s.putByte v) hwb).putByte (by omega)
    · rw [M.bind_error (winWrite_past_end hp v)]
      exact .refl _ s

/-- The end of a match: a check fails, or up to its length is stored (R213 to R216). -/
theorem finishMatch_stores {s : State} (hwb : s.dec.wb.toNat ≤ 21) (length : Nat) (offset : Word) :
    Stores length s (M.finalState ((finishMatch length offset).run s)) := by
  refine finalState_bind_same (checkMatch_state _ _ s) (.refl _ s) fun _ => ?_
  have hcopy := copyBytes_stores offset.toNat length hwb
  rw [EStateM.run_bind]
  cases hr : (copyBytes offset.toNat length).run s with
  | ok a t => rw [hr] at hcopy; exact hcopy.spendRun length
  | error e t => rw [hr] at hcopy; exact hcopy

/-! ### The frame of an element -/

/-- At most `n` bytes are stored, then an error may be taken. -/
def StoresOrFaults (n : Nat) (s t : State) : Prop :=
  ∃ v, Stores n s v ∧ (t = v ∨ ∃ e p, t = v.enterFault e p)

/-- The cursor and the repeated offsets move, then at most `n` bytes are stored, then an error may be taken. -/
def MainFrame (n : Nat) (s t : State) : Prop := ∃ u, OffsetsMoved s u ∧ StoresOrFaults n u t

theorem OffsetsMoved.refl (s : State) : OffsetsMoved s s := ⟨_, _, _, _, rfl⟩

theorem OffsetsMoved.of_onlyCur {s u : State} (h : OnlyCur s u) : OffsetsMoved s u := ⟨u.cur, _, _, _, h⟩

theorem StoresOrFaults.complete {n : Nat} {m : M Unit} {s t : State} (hm : Stores n s (M.finalState (m.run s)))
    (h : complete m s = .next t) : StoresOrFaults n s t := by
  rcases complete_eq_next h with hr | ⟨e, p, v, hr, rfl⟩
  · rw [hr] at hm
    exact ⟨t, hm, .inl rfl⟩
  · rw [hr] at hm
    exact ⟨v, hm, .inr ⟨e, p, rfl⟩⟩

theorem StoresOrFaults.mainFrame {n : Nat} {s t : State} (h : StoresOrFaults n s t) : MainFrame n s t :=
  ⟨s, .refl s, h⟩

/-- An element that the grammar has a place for is what follows its guard. -/
theorem complete_inRun {ok : BitVec 3 → Bool} {f : Unit → M Unit} {s t : State}
    (h : complete (inRun ok >>= f) s = .next t) : complete (f ()) s = .next t := by
  by_cases hp : s.phase = .runLoop ∧ 0 < s.run ∧ ok s.dec.blockType = true
  · obtain ⟨hphase, hrun, hok⟩ := hp
    rwa [complete_bind (inRun_ok hphase hrun hok)] at h
  · have hr : (inRun ok).run s = .error (.refuse .outsideGrammar) s := by simp [inRun, hp]
    rw [complete_refuse (M.bind_error hr)] at h
    cases h

/-- The literals, the matches, the length footer and the aligned symbol. -/
def MainElement : Instr → Prop
  | .mainLit _ | .mainMatchR0 _ | .mainMatchR1 _ | .mainMatchR2 _ | .mainMatchOne _ => True
  | .mainMatchVerb _ _ | .mainMatchAlgn _ _ | .lenFooter _ | .alnSym _ => True
  | _ => False

section frame

variable {n length : Nat} {s t : State}

theorem goto_mainFrame {p : Phase} (h : complete (goto p) s = .next t) : MainFrame n s t :=
  (StoresOrFaults.complete (m := goto p) (.goto n s p) h).mainFrame

theorem mainLit_stores {b : Byte} (h : exec (.mainLit b) s = .next t) : StoresOrFaults 1 s t := by
  cases winWrite_next (complete_inRun h)
  exact ⟨_, (Stores.putByte_one s b).spendRun 1, .inl rfl⟩

/-- After a match's main symbol the footer is awaited, or the offset step follows (R203). -/
theorem matchElement_cases {ok : BitVec 3 → Bool} {slot : BitVec 6} {lh : BitVec 3} {step : Nat → M Unit}
    (h : complete (inRun ok >>= fun _ => afterHeader slot lh step) s = .next t) :
    lh = 7 ∧ t = s.goto (.footer slot) ∨ lh ≠ 7 ∧ complete (step (matchLength lh 0)) s = .next t := by
  have h := complete_inRun h
  by_cases hlh : lh = 7
  · rw [afterHeader, if_pos hlh] at h
    cases h
    exact .inl ⟨hlh, rfl⟩
  · rw [afterHeader, if_neg hlh] at h
    exact .inr ⟨hlh, h⟩

/-- A match that awaits its footer stores nothing; any other what its offset step stores. -/
theorem matchElement_mainFrame {ok : BitVec 3 → Bool} {slot : BitVec 6} {lh : BitVec 3} {step : Nat → M Unit}
    (h : complete (inRun ok >>= fun _ => afterHeader slot lh step) s = .next t)
    (hstep : complete (step (matchLength lh 0)) s = .next t → MainFrame n s t) :
    MainFrame (if lh = 7 then 0 else n) s t := by
  rcases matchElement_cases h with ⟨-, rfl⟩ | ⟨hlh, h⟩
  · exact goto_mainFrame rfl
  · rw [if_neg hlh]
    exact hstep h

variable (hwb : s.dec.wb.toNat ≤ 21)
include hwb

theorem finishMatch_mainFrame {u : State} {offset : Word} (hu : OffsetsMoved s u)
    (h : complete (finishMatch length offset) u = .next t) : MainFrame length s t := by
  refine ⟨u, hu, .complete (finishMatch_stores ?_ length offset) h⟩
  obtain ⟨c, r0, r1, r2, rfl⟩ := hu
  exact hwb

/-- Slot 0 moves neither the cursor nor an offset (R205). -/
theorem mainMatchR0_stores {lh : BitVec 3} (h : exec (.mainMatchR0 lh) s = .next t) :
    StoresOrFaults (storedBytes s (.mainMatchR0 lh)) s t := by
  rcases matchElement_cases h with ⟨-, rfl⟩ | ⟨hlh, h⟩
  · exact ⟨_, .goto _ s _, .inl rfl⟩
  · simp only [storedBytes, if_neg hlh]
    exact .complete (m := matchR0 _) (finishMatch_stores hwb _ _) h

theorem matchR0_mainFrame (h : complete (matchR0 length) s = .next t) : MainFrame length s t :=
  finishMatch_mainFrame hwb (.refl s) h

theorem matchR1_mainFrame (h : complete (matchR1 length) s = .next t) : MainFrame length s t :=
  finishMatch_mainFrame hwb (u := s.swapR1) ⟨_, _, _, _, rfl⟩ h

theorem matchR2_mainFrame (h : complete (matchR2 length) s = .next t) : MainFrame length s t :=
  finishMatch_mainFrame hwb (u := s.swapR2) ⟨_, _, _, _, rfl⟩ h

theorem matchNew_mainFrame {offset : Nat} (h : complete (matchNew length offset) s = .next t) : MainFrame length s t :=
  finishMatch_mainFrame hwb (u := s.pushOffset (narrow offset)) ⟨_, _, _, _, rfl⟩ h

theorem matchVerb_mainFrame {slot : Nat} (h : complete (matchVerb slot length) s = .next t) : MainFrame length s t := by
  obtain ⟨u, hu, ⟨v, h⟩ | hfault⟩ := complete_cursor_bind (readBits_keeps _) h
  · obtain ⟨c, rfl⟩ : ∃ c, u = { s with cur := c } := ⟨u.cur, hu⟩
    exact finishMatch_mainFrame hwb (u := State.pushOffset { s with cur := c } _) ⟨_, _, _, _, rfl⟩ h
  · exact ⟨u, .of_onlyCur hu, u, .refl _ u, .inr hfault⟩

/-- With 3 or more extra bits an ALIGNED match stores nothing before its aligned symbol (R210). -/
theorem matchAlgn_mainFrame {slot : Nat} (h : complete (matchAlgn slot length) s = .next t) :
    MainFrame (if 3 ≤ extraBits slot then 0 else length) s t := by
  rw [matchAlgn_eq] at h
  split at h
  · obtain ⟨u, hu, ⟨v, h⟩ | hfault⟩ := complete_cursor_bind (readBits_keeps _) h
    · exact ⟨u, .of_onlyCur hu, .complete (m := goto _) (.goto _ u _) h⟩
    · exact ⟨u, .of_onlyCur hu, u, .refl _ u, .inr hfault⟩
  split at h
  · exact goto_mainFrame h
  · rw [if_neg (by omega)]
    exact matchVerb_mainFrame hwb h

/-- The offset step of a slot: only an ALIGNED match of 3 or more extra bits stores nothing yet. -/
theorem offsetStep_mainFrame {slot : BitVec 6} (h : complete (offsetStep slot length) s = .next t) :
    MainFrame (if s.dec.blockType = 2 ∧ 3 ≤ extraBits slot.toNat then 0 else length) s t := by
  by_cases h4 : 4 ≤ slot.toNat
  · rw [complete_offsetStep_of_four_le h4] at h
    split at h
    · next hb =>
      rw [if_neg (by rw [hb]; simp)]
      exact matchVerb_mainFrame hwb h
    split at h
    · next hb =>
      simp only [hb, true_and]
      exact matchAlgn_mainFrame hwb h
    · cases h
  · have hbits : extraBits slot.toNat = 0 := if_pos (by omega)
    rw [if_neg (by omega)]
    have h := (complete_bind (EStateM.run_get s)).symm.trans h
    split at h
    · exact matchR0_mainFrame hwb h
    split at h
    · exact matchR1_mainFrame hwb h
    split at h
    · exact matchR2_mainFrame hwb h
    split at h
    · exact matchNew_mainFrame hwb h
    · next h0 h1 h2 h3 => bv_omega

theorem lenFooter_mainFrame {f : BitVec 8} (h : exec (.lenFooter f) s = .next t) :
    MainFrame (storedBytes s (.lenFooter f)) s t := by
  by_cases hp : ∃ slot, s.phase = .footer slot
  · obtain ⟨slot, hp⟩ := hp
    rw [exec_lenFooter hp] at h
    simp only [storedBytes, hp]
    exact offsetStep_mainFrame hwb h
  · have h := (complete_bind (EStateM.run_get s)).symm.trans h
    cases hq : s.phase with
    | footer slot => exact absurd ⟨slot, hq⟩ hp
    | _ => simp only [hq] at h; cases h

theorem alnSym_mainFrame {a : BitVec 3} (h : exec (.alnSym a) s = .next t) :
    MainFrame (storedBytes s (.alnSym a)) s t := by
  by_cases hp : ∃ length base, s.phase = .alignedSym length base
  · obtain ⟨length, base, hp⟩ := hp
    rw [exec_alnSym hp] at h
    simp only [storedBytes, hp]
    exact matchNew_mainFrame hwb h
  · have h := (complete_bind (EStateM.run_get s)).symm.trans h
    cases hq : s.phase with
    | alignedSym length base => exact absurd ⟨length, base, hq⟩ hp
    | _ => simp only [hq] at h; cases h

theorem mainElement_mainFrame {i : Instr} (hi : MainElement i) (h : exec i s = .next t) :
    MainFrame (storedBytes s i) s t := by
  cases i with
  | mainLit => exact (mainLit_stores h).mainFrame
  | mainMatchR0 => exact (mainMatchR0_stores hwb h).mainFrame
  | mainMatchR1 => exact matchElement_mainFrame h (matchR1_mainFrame hwb)
  | mainMatchR2 => exact matchElement_mainFrame h (matchR2_mainFrame hwb)
  | mainMatchOne => exact matchElement_mainFrame h (matchNew_mainFrame hwb)
  | mainMatchVerb => exact matchElement_mainFrame h (matchVerb_mainFrame hwb)
  | mainMatchAlgn =>
    rw [storedBytes, ite_or]
    exact matchElement_mainFrame h (matchAlgn_mainFrame hwb)
  | lenFooter => exact lenFooter_mainFrame hwb h
  | alnSym => exact alnSym_mainFrame hwb h
  | _ => exact hi.elim

end frame

/-- What a main-tree element may change, from `t`. -/
def State.mainElementFrame (t s : State) : State :=
  { s with
    cur := t.cur, run := t.run, phase := t.phase, stat := t.stat, replies := t.replies
    dec :=
      { s.dec with
        r0 := t.dec.r0, r1 := t.dec.r1, r2 := t.dec.r2
        window := t.dec.window, windowPos := t.dec.windowPos, written := t.dec.written } }

theorem MainFrame.framed {n : Nat} {s t : State} (h : MainFrame n s t) :
    t = t.mainElementFrame s ∧ StaysOrFaults s t ∧
      ∀ a, a < s.dec.windowPos.toNat ∨ s.dec.windowPos.toNat + n ≤ a → t.windowByte a = s.windowByte a := by
  obtain ⟨_, ⟨c, r0, r1, r2, rfl⟩, v, ⟨⟨run, phase, window, windowPos, written, rfl⟩, hout⟩, hend⟩ := h
  rcases hend with rfl | ⟨e, p, rfl⟩
  · exact ⟨rfl, .inl ⟨rfl, rfl⟩, hout⟩
  · exact ⟨rfl, .inr rfl, hout⟩

theorem StoresOrFaults.leaves_offsets_cursor {n : Nat} {s t : State} (h : StoresOrFaults n s t) :
    t.dec.r0 = s.dec.r0 ∧ t.dec.r1 = s.dec.r1 ∧ t.dec.r2 = s.dec.r2 ∧ t.cur = s.cur := by
  obtain ⟨v, ⟨⟨run, phase, window, windowPos, written, rfl⟩, -⟩, rfl | ⟨e, p, rfl⟩⟩ := h
  · exact ⟨rfl, rfl, rfl, rfl⟩
  · exact ⟨rfl, rfl, rfl, rfl⟩

/-- Settles O32: the frame of every element, and of a literal and slot 0 that they only store. -/
theorem mainElementsLeaveTheRestAlone : Obligations.MainElementsLeaveTheRestAlone := by
  intro s t i hi hwb h
  have helem : MainElement i := by
    rcases hi with ⟨b, rfl⟩ | ⟨lh, rfl⟩ | ⟨lh, rfl⟩ | ⟨lh, rfl⟩ | ⟨lh, rfl⟩ | ⟨slot, lh, rfl⟩ | ⟨slot, lh, rfl⟩ |
      ⟨f, rfl⟩ | ⟨a, rfl⟩ <;> trivial
  obtain ⟨heq, hstat, hout⟩ := (mainElement_mainFrame hwb helem h).framed
  refine ⟨heq, ?_, hstat, hout⟩
  rintro (⟨b, rfl⟩ | ⟨lh, rfl⟩)
  · exact (mainLit_stores h).leaves_offsets_cursor
  · exact (mainMatchR0_stores hwb h).leaves_offsets_cursor

end Sys2Proof.Machine
end

section
/-! SUPPORT. The frame sequencer (spec/45_frame_sequencer.md R231 to R237): the start of a SEQ_RUN, its loop, the frame
headers of its payload, and the check of its total. -/

namespace Sys2Proof.Machine

/-! ### SEQ_RUN (R231, R232) -/

theorem exec_seqRun_ready {s : State} (hp : s.phase = .idle) (hr : s.stat.status = .ready) (len : Word)
    (payload : List Byte) :
    exec (.seqRun len payload) s =
      .next (({ s with
        seq := some { payload := payload, pos := 0, decompressedLen := len, out := [] } } : State).goto .seqLoop) :=
  complete_ok (by rw [M.bind_ok (betweenCommands_ok hp), M.bind_ok (EStateM.run_get s), if_neg (not_not.2 hr)]; rfl)

/-- A SEQ_RUN transaction takes as many bytes as its first operand word says, and its second is `decompressed_len`
(spec/30_encoding.md R71). -/
theorem decode_seqRun {c : HostCommand} {inLen len : Word} (hc : c.word = 3) (hin : c.operands[0]? = some inLen)
    (hlen : c.operands[1]? = some len) (draw : Nat) :
    decode (.cmd c draw) = .ok (.seqRun len (commandBytes c draw inLen.toNat)) := by
  have hk : cmdKind c.word = .seqRun := hc ▸ cmdKind_seqRun
  simp only [decode, decodeCommand, hk, countedBytes, operandWord_supplied hin, operandWord_supplied hlen]

/-- Settles O3: the start of a SEQ_RUN, and the bytes it takes. -/
theorem seqRunStartsAtPayloadHead : Obligations.SeqRunStartsAtPayloadHead := by
  refine ⟨fun s len payload hp hr => exec_seqRun_ready hp hr len payload,
    fun c draw inLen len hc hin hlen => ⟨_, decode_seqRun hc hin hlen draw, ?_, fun k hk hs => ?_⟩⟩
  · exact commandBytes_length c draw inLen.toNat
  · exact commandBytes_supplied hk hs

/-! ### The loop and the total (R232, R237) -/

section loop

variable {s : State} {q : SeqRegs}

theorem step_seqLoop (hp : s.phase = .seqLoop) : step s = complete seqLoop s := by
  simp only [step, fetch, hp]

theorem step_seqFinish (hp : s.phase = .seqFinish) : step s = complete seqFinish s := by
  simp only [step, fetch, hp]

theorem seqLoop_run (hq : s.seq = some q) :
    seqLoop.run s = .ok () (s.goto (if q.pos < q.payload.length then .frameHdr else .seqFinish)) := by
  rw [seqLoop, M.bind_ok (EStateM.run_get s), hq]
  dsimp only
  split <;> rfl

theorem seqFinish_total (hq : s.seq = some q) (h : q.out.length = q.decompressedLen.toNat) :
    seqFinish.run s = .ok () (({ s with seq := none } : State).reply { status := 0, data := .output q.out }) := by
  rw [seqFinish, M.bind_ok (EStateM.run_get s), hq]
  dsimp only
  rw [if_neg (not_not.2 h)]
  rfl

theorem seqFinish_mismatch (hq : s.seq = some q) (h : q.out.length ≠ q.decompressedLen.toNat) :
    seqFinish.run s = .error (.raise .sizeMismatch (some (8 * q.pos))) s := by
  rw [seqFinish, M.bind_ok (EStateM.run_get s), hq]
  dsimp only
  rw [if_pos h]
  rfl

end loop

/-- Settles O41: the loop test, then the two outcomes of the check at the end. -/
theorem sequencerLoopAndTotal : Obligations.SequencerLoopAndTotal := by
  refine fun s q hq => ⟨fun hp => ?_, fun hp => ?_⟩
  · rw [step_seqLoop hp]
    exact complete_ok (seqLoop_run hq)
  · rw [step_seqFinish hp]
    exact ⟨fun h => complete_ok (seqFinish_total hq h), fun h => complete_raise (seqFinish_mismatch hq h)⟩

/-! ### Frame headers (R233 to R236) -/

/-- The two frame headers, each with its length in bytes and the two sizes it gives (R233, R234). -/
def FrameForm (q : SeqRegs) (i : Instr) (n frameSize blockSize : Nat) : Prop :=
  (∃ h0, i = .frmStd h0 ∧ n = 2 ∧ frameSize = 32768 ∧
      blockSize = h0.toNat * 256 + (q.payload.getD (q.pos + 1) 0).toNat) ∨
    (i = .frmExplicit ∧ n = 5 ∧
      frameSize = (q.payload.getD (q.pos + 1) 0).toNat * 256 + (q.payload.getD (q.pos + 2) 0).toNat ∧
      blockSize = (q.payload.getD (q.pos + 3) 0).toNat * 256 + (q.payload.getD (q.pos + 4) 0).toNat)

/-- The state past a frame header of `n` bytes. -/
def State.pastHeader (s : State) (q : SeqRegs) (n : Nat) : State := { s with seq := some { q with pos := q.pos + n } }

section frame

variable {s : State} {q : SeqRegs} {i : Instr} {n frameSize blockSize : Nat}

/-- A frame's size fits in `out_len`. -/
theorem FrameForm.frameSize_lt (h : FrameForm q i n frameSize blockSize) : frameSize < 2 ^ 32 := by
  rcases h with ⟨h0, -, -, rfl, -⟩ | ⟨-, -, rfl, -⟩
  · decide
  · exact frameField_lt _ _

/-- Both headers are the bounds check and what follows it, on their own length and sizes. -/
theorem FrameForm.exec_eq (h : FrameForm q i n frameSize blockSize) (hp : s.phase = .frameHdr) (hq : s.seq = some q) :
    exec i s = complete (do frameBytes q n; startFrameAt q n frameSize blockSize) s := by
  rcases h with ⟨h0, rfl, rfl, rfl, rfl⟩ | ⟨rfl, rfl, rfl, rfl⟩
  · exact complete_bind (atFrameHdr_ok hp hq)
  · exact complete_bind (atFrameHdr_ok hp hq)

theorem frameBytes_short (h : q.payload.length < q.pos + n) :
    (frameBytes q n).run s = .error (.raise .truncatedInput (some (8 * q.pos))) s := by
  rw [frameBytes, if_pos h]
  rfl

theorem frameBytes_ok (h : q.pos + n ≤ q.payload.length) : (frameBytes q n).run s = .ok () s := by
  rw [frameBytes, if_neg (not_lt.2 h)]
  rfl

/-- A zero size ends the payload (R235). -/
theorem startFrameAt_end (h : blockSize = 0 ∨ frameSize = 0) :
    (startFrameAt q n frameSize blockSize).run s = .ok () ((s.pastHeader q n).goto .seqFinish) := by
  rw [startFrameAt, M.bind_ok (EStateM.run_modify _ s), if_pos h]
  rfl

section sized

variable (hb : 0 < blockSize) (hf : 0 < frameSize)
include hb hf

/-- A chunk past the payload (R236). -/
theorem startFrameAt_short (h : q.payload.length < q.pos + n + blockSize) :
    (startFrameAt q n frameSize blockSize).run s =
      .error (.raise .truncatedInput (some (8 * (q.pos + n)))) (s.pastHeader q n) := by
  rw [startFrameAt, M.bind_ok (EStateM.run_modify _ s), if_neg (by omega), if_pos h]
  rfl

/-- The frame's DECOMPRESS on the next `blockSize` bytes (R232). -/
theorem startFrameAt_ok (h : q.pos + n + blockSize ≤ q.payload.length) :
    (startFrameAt q n frameSize blockSize).run s =
      .ok () ((s.pastHeader q n).startFrame ((q.payload.drop (q.pos + n)).take blockSize)
        (BitVec.ofNat 32 frameSize)) := by
  rw [startFrameAt, M.bind_ok (EStateM.run_modify _ s), if_neg (by omega), if_neg (not_lt.2 h)]
  rfl

end sized

end frame

/-- Settles O28: both headers by their common form, then the two bounds checks and the sizes between them. -/
theorem frameHeaderStartsFrame : Obligations.FrameHeaderStartsFrame := by
  intro s q i n frameSize blockSize hp hq hform
  change FrameForm q i n frameSize blockSize at hform
  rw [hform.exec_eq hp hq]
  refine ⟨fun hshort => ?_, fun hhdr hzero => ?_, fun hhdr hb hf hshort => ?_, fun hb hf hfit => ?_⟩
  · exact ⟨_, complete_raise (M.bind_error (frameBytes_short hshort)), rfl, rfl, rfl, rfl⟩
  · exact (complete_bind (frameBytes_ok hhdr)).trans (complete_ok (startFrameAt_end hzero))
  · exact ⟨_, (complete_bind (frameBytes_ok hhdr)).trans (complete_raise (startFrameAt_short hb hf hshort)),
      rfl, rfl, rfl, rfl⟩
  · refine ⟨_, (complete_bind (frameBytes_ok (by omega))).trans (complete_ok (startFrameAt_ok hb hf hfit)),
      ?_, fun k hk => ?_, Nat.mod_eq_of_lt hform.frameSize_lt, rfl⟩
    · rw [State.startFrame_chunk, List.length_take, List.length_drop]
      omega
    · rw [State.startFrame_chunk, List.getElem?_take_of_lt hk, List.getElem?_drop]

end Sys2Proof.Machine
end

section
/-! SUPPORT. Operations that do not stop the model: from where they start they answer or raise an error of the spec, and
meet no lean fault and no refusal. Some never stop it from any state; the others rely on a guard that lets them through,
on a complete table, or on a run that the window holds (log 17). -/

namespace Sys2Proof.Machine

variable {α β : Type}

/-- From `s` the operation answers with `Q`, or it raises an error of the spec. -/
def RunsOn (m : M α) (s : State) (Q : α → State → Prop) : Prop :=
  match m.run s with
  | .ok a t => Q a t
  | .error stop _ => ∃ e pos, stop = .raise e pos

/-- From `s` the operation answers or raises an error of the spec. -/
abbrev Proceeds (m : M α) (s : State) : Prop := RunsOn m s fun _ _ => True

/-- From every state the operation answers or raises an error of the spec. -/
abbrev NeverStops (m : M α) : Prop := ∀ s, Proceeds m s

namespace RunsOn

variable {s t : State} {Q : α → State → Prop} {R : β → State → Prop}

theorem of_ok {m : M α} {a : α} (h : m.run s = .ok a t) (hq : Q a t) : RunsOn m s Q := by
  unfold RunsOn
  rwa [h]

theorem of_raise {m : M α} {e : Err} {pos : Option Nat} (h : m.run s = .error (.raise e pos) t) : RunsOn m s Q := by
  unfold RunsOn
  rw [h]
  exact ⟨e, pos, rfl⟩

theorem bind {m : M α} {f : α → M β} (hm : RunsOn m s Q) (hf : ∀ a t, Q a t → RunsOn (f a) t R) :
    RunsOn (m >>= f) s R := by
  unfold RunsOn at hm ⊢
  rw [EStateM.run_bind]
  cases hr : m.run s with
  | ok a t => rw [hr] at hm; exact hf a t hm
  | error e t => rw [hr] at hm; exact hm

/-- An answer, and what follows it. -/
theorem ok_bind {m : M α} {f : α → M β} {a : α} (h : m.run s = .ok a t) (hf : RunsOn (f a) t R) :
    RunsOn (m >>= f) s R :=
  bind (Q := fun b u => b = a ∧ u = t) (of_ok h ⟨rfl, rfl⟩) fun _ _ ⟨ha, ht⟩ => ha ▸ ht ▸ hf

/-- A read of the state, and what follows it. -/
theorem get_bind {f : State → M β} (h : RunsOn (f s) s R) : RunsOn ((MonadState.get : M State) >>= f) s R := h

/-- An operation that never stops the model, and what is known of its answers. -/
theorem of_neverStops {m : M α} (h : NeverStops m) (hok : ∀ a t, m.run s = .ok a t → Q a t) : RunsOn m s Q := by
  have hs : RunsOn m s _ := h s
  unfold RunsOn at hs ⊢
  cases hr : m.run s with
  | ok a t => exact hok a t hr
  | error e t => rw [hr] at hs; exact hs

theorem of_ends {m : M α} (h : NeverStops m) (he : Ends m s Q) : RunsOn m s Q :=
  of_neverStops h fun a t hr => by
    unfold Ends at he
    rwa [hr] at he

/-- A read that never stops the model moves the cursor alone. -/
theorem of_onlyCur {m : M α} (h : NeverStops m) (hm : Keeps OnlyCur m) : RunsOn m s fun _ => OnlyCur s :=
  of_neverStops h fun a t hr => by
    have hs := hm s
    rwa [hr] at hs

/-- Run to its end, the errors of the spec taken, the operation leaves a next state. -/
theorem complete {m : M Unit} (h : RunsOn m s fun _ _ => True) : ∃ t, complete m s = .next t := by
  unfold RunsOn at h
  cases hr : m.run s with
  | ok a t => exact ⟨t, complete_ok hr⟩
  | error stop t =>
    rw [hr] at h
    obtain ⟨e, pos, rfl⟩ := h
    exact ⟨_, complete_raise hr⟩

end RunsOn

/-! ### Operations that never stop the model -/

namespace NeverStops

theorem bind {m : M α} {f : α → M β} (hm : NeverStops m) (hf : ∀ a, NeverStops (f a)) : NeverStops (m >>= f) :=
  fun s => (hm s).bind fun a t _ => hf a t

theorem pure (a : α) : NeverStops (pure a : M α) := fun _ => trivial

theorem raise (e : Err) : NeverStops (raise e : M α) := fun s => .of_raise (M.run_raise e s)

theorem raiseAt (e : Err) (pos : Nat) : NeverStops (raiseAt e pos : M α) := fun s => .of_raise (M.run_raiseAt e pos s)

theorem get : NeverStops (get : M State) := fun _ => trivial

theorem set (u : State) : NeverStops (set u : M PUnit) := fun _ => trivial

theorem modify (f : State → State) : NeverStops (modify f : M PUnit) := fun _ => trivial

theorem goto (p : Phase) : NeverStops (goto p) := modify _

theorem reply (c : BitVec 4) (d : ReplyData) : NeverStops (reply c d) := modify _

theorem ite {c : Prop} [Decidable c] {m n : M α} (hm : NeverStops m) (hn : NeverStops n) :
    NeverStops (if c then m else n) := by
  split
  · exact hm
  · exact hn

/-- What would follow a raise never runs. -/
theorem raise_bind (e : Err) (f : α → M β) : NeverStops (Machine.raise e >>= f) := fun s =>
  .of_raise (M.bind_error (M.run_raise e s))

/-! The reads (spec/40_bitreader.md R103 to R108): a byte that is not there is TruncatedInput. -/

theorem fetchBits (n : Nat) : NeverStops (fetchBits n) := get.bind fun _ => .ite (raiseAt _ _) (pure _)

theorem consume (n : Nat) : NeverStops (consume n) := get.bind fun s => by
  cases firstPhantom s.chunk.length s.cur.segBase.toNat s.cur.c.toNat n with
  | none => exact set _
  | some b => exact raiseAt _ _

theorem readBits (n : Nat) : NeverStops (readBits n) :=
  (fetchBits n).bind fun _ => get.bind fun _ => (consume n).bind fun _ => pure _

theorem alignToRaw : NeverStops alignToRaw := (fetchBits 16).bind fun _ => modify _

theorem readRawByte : NeverStops readRawByte := get.bind fun s => by
  cases s.chunk[s.cur.inPos.toNat]? with
  | none => exact raiseAt _ _
  | some v => exact (set _).bind fun _ => pure _

theorem readRaw32 : NeverStops readRaw32 :=
  readRawByte.bind fun _ => readRawByte.bind fun _ => readRawByte.bind fun _ => readRawByte.bind fun _ => pure _

/-! Length fields, tables and checks: a bad set of lengths and a check that fails are errors of the spec. -/

theorem build {w : Nat} (m : Cells w) (n : Nat) : NeverStops (build m n) := by
  unfold Machine.build
  cases buildTable (codeLens m n) with
  | ok t => exact pure t
  | error c => exact raise _

theorem readAlignedLens : ∀ n i, NeverStops (readAlignedLens i n)
  | 0, _ => pure _
  | n + 1, i => (readBits 3).bind fun _ => (modify _).bind fun _ => readAlignedLens n (i + 1)

theorem readPreLens : ∀ n i, NeverStops (readPreLens i n)
  | 0, _ => pure _
  | n + 1, i => (readBits 4).bind fun _ => (modify _).bind fun _ => readPreLens n (i + 1)

theorem checkMatch (length offset : Nat) : NeverStops (checkMatch length offset) :=
  get.bind fun _ =>
    .ite (raise_bind _ _) <| .ite (raise_bind _ _) <| .ite (raise_bind _ _) <| .ite (raise_bind _ _) <|
      .ite (raise _) (pure _)

theorem frame (q : SeqRegs) (n frameSize blockSize : Nat) :
    NeverStops (frameBytes q n >>= fun _ => startFrameAt q n frameSize blockSize) :=
  bind (.ite (raiseAt _ _) (pure _)) fun _ => (modify _).bind fun _ => .ite (goto _) (.ite (raiseAt _ _) (modify _))

/-! The rules between elements that rely on nothing. -/

theorem startBlockHeader : NeverStops startBlockHeader :=
  get.bind fun _ => .ite (goto _) (.ite ((modify _).bind fun _ => goto _) (goto _))

theorem startRun : NeverStops startRun :=
  (modify _).bind fun _ => get.bind fun _ => .ite (raise_bind _ _) (goto _)

theorem mainLoop : NeverStops mainLoop := get.bind fun _ => .ite (goto _) (.ite startBlockHeader startRun)

theorem endRecord : ∀ r, NeverStops (endRecord r)
  | .main1 => goto _
  | .main2 => bind (get.bind fun _ => (build _ _).bind fun _ => set _) fun _ => goto _
  | .length => bind (get.bind fun _ => (build _ _).bind fun _ => set _) fun _ => goto _

theorem e8Pass : NeverStops e8Pass :=
  get.bind fun _ => .ite
    (.ite ((set _).bind fun _ => goto _) (.ite (raise_bind _ _) ((set _).bind fun _ => goto _))) (goto _)

theorem deliver : NeverStops deliver := (modify _).bind fun _ => get.bind fun s => by
  cases s.seq with
  | none => exact reply _ _
  | some q => exact set _

end NeverStops

/-! ### Operations that rely on the state -/

namespace RunsOn

variable {s : State}

/-- A complete table has a code for every pattern (spec/41_huffman.md R125), and its symbols are of the alphabet. -/
theorem decodeSym {n : Nat} {table : DecodeTable} (h : TableOk n table) :
    RunsOn (decodeSym table) s fun sym t => sym < n ∧ OnlyCur s t := by
  rcases h with rfl | ⟨lens, hlens, rfl⟩
  · exact of_raise (decodeSym_empty s)
  by_cases hf : s.canFetch 16
  · obtain ⟨e, he, hcode, hpos, hle, hsym, -, huniq⟩ :=
      canonicalCodeCoversEveryPattern n lens hlens (s.bitsAhead noDraw 16) (segBits_lt 16)
    have hpeek : s.peeksCode noDraw (canonicalCode lens) e := ⟨he, hcode, huniq⟩
    cases hp : firstPhantom s.chunk.length s.cur.segBase.toNat s.cur.c.toNat e.len with
    | none => exact of_ok (decodeSym_real hf hpeek hpos hle (firstPhantom_none.1 hp)) ⟨hsym, .skip s _⟩
    | some b => exact of_raise (decodeSym_phantom hf hpeek hle hp)
  · exact of_raise (decodeSym_raise (.inl ⟨hf, rfl⟩))

/-- A byte of the window is there or is UnwrittenWindowRead (spec/20_memory.md R56). -/
theorem winRead {a : Nat} (h : a < windowSize s.dec.wb) : RunsOn (winRead a) s fun _ t => t = s := by
  cases hv : s.windowByte a with
  | some v => exact of_ok (winRead_ok h hv) rfl
  | none => exact of_raise (winRead_unwritten h hv)

/-- Inside a run with bytes left that the window does not hold yet, the write cursor is below WS. -/
theorem winWrite {n : Nat} (h : InRun n s) (hn : n < s.run) (v : Byte) :
    RunsOn (winWrite v) s fun _ t => InRun (n + 1) t ∧ t.run = s.run := by
  have hp : s.dec.windowPos.toNat < windowSize s.dec.wb := by have := h.2.2; omega
  exact of_ok (winWrite_ok hp v) ⟨h.putByte hn v, rfl⟩

/-- The sources of a copy are addresses modulo WS (spec/44_symbols.md R215). -/
theorem copyBytes (offset : Nat) : ∀ {k n : Nat} {s : State}, InRun n s → n + k ≤ s.run →
    Proceeds (copyBytes offset k) s
  | 0, _, _, _, _ => trivial
  | k + 1, n, s, h, hk => get_bind <| (winRead (behind_lt s offset)).bind fun v t ht => by
    subst ht
    exact (winWrite h (by omega) v).bind fun _ u ⟨hu, hru⟩ => copyBytes offset hu (by omega)

theorem finishMatch (h : InRun 0 s) (length : Nat) (offset : Word) : Proceeds (finishMatch length offset) s := by
  have hcheck : Ends (checkMatch length offset.toNat) s fun _ t => t = s ∧ length ≤ s.run :=
    .same (checkMatch_state _ _ s) h.stored fun _ _ => checkMatch_eq_ok
  refine (of_ends (.checkMatch _ _) hcheck).bind fun _ t ⟨ht, hlen⟩ => ?_
  subst ht
  exact (copyBytes offset.toNat h (by omega)).bind fun _ u _ => NeverStops.modify _ u

theorem matchR0 (h : InRun 0 s) (length : Nat) : Proceeds (matchR0 length) s := finishMatch h length s.dec.r0

theorem matchR1 (h : InRun 0 s) (length : Nat) : Proceeds (matchR1 length) s :=
  finishMatch (s := s.swapR1) h length s.dec.r1

theorem matchR2 (h : InRun 0 s) (length : Nat) : Proceeds (matchR2 length) s :=
  finishMatch (s := s.swapR2) h length s.dec.r2

theorem matchNew (h : InRun 0 s) (length offset : Nat) : Proceeds (matchNew length offset) s :=
  finishMatch (s := s.pushOffset (narrow offset)) h length (narrow offset)

theorem readBits (h : InRun 0 s) (n : Nat) : RunsOn (readBits n) s fun _ => InRun 0 :=
  of_ends (.readBits n) (.cursorInRun (readBits_keeps n) h)

theorem matchVerb (h : InRun 0 s) (slot length : Nat) : Proceeds (matchVerb slot length) s :=
  (readBits h _).bind fun _ _ ht => matchNew ht _ _

theorem matchAlgn (h : InRun 0 s) (slot length : Nat) : Proceeds (matchAlgn slot length) s := by
  rw [matchAlgn_eq]
  split
  · exact (readBits h _).bind fun _ t _ => NeverStops.goto _ t
  · split
    · exact NeverStops.goto _ s
    · exact matchVerb h slot length

/-- The offset step after a footer: the block is VERBATIM or ALIGNED, so every slot has one (spec/44_symbols.md R203). -/
theorem offsetStep (h : InRun 0 s) (hb : s.dec.blockType = 1 ∨ s.dec.blockType = 2) (slot : BitVec 6) (length : Nat) :
    Proceeds (offsetStep slot length) s := by
  show Proceeds (ite _ _ _) s
  split
  · exact matchR0 h _
  split
  · exact matchR1 h _
  split
  · exact matchR2 h _
  split
  · exact matchNew h _ _
  split
  · exact matchVerb h _ _
  split
  · exact matchAlgn h _ _
  · next h1 h2 => exact absurd hb (not_or.2 ⟨h1, h2⟩)

/-- After the main symbol: its footer is awaited, or its offset step is taken (spec/44_symbols.md R203). -/
theorem afterHeader {slot : BitVec 6} {lh : BitVec 3} {next : Nat → M Unit} (h : ∀ n, Proceeds (next n) s) :
    Proceeds (afterHeader slot lh next) s := by
  unfold Machine.afterHeader
  split
  · exact NeverStops.goto _ s
  · exact h _

/-- The frame's bytes lie below WS (spec/42_commands.md R146). -/
theorem readBytes : ∀ {n a : Nat} {s : State}, a + n ≤ windowSize s.dec.wb → Proceeds (readBytes a n) s
  | 0, _, _, _ => trivial
  | n + 1, a, s, h => (winRead (by omega)).bind fun _ t ht => by
    subst ht
    exact (readBytes (by omega)).bind fun _ u _ => NeverStops.pure _ u

theorem frameOutput (h : s.dec.windowPos.toNat ≤ windowSize s.dec.wb) : Proceeds frameOutput s := by
  have hstop : (if s.dec.windowPos ≠ 0 then s.dec.windowPos.toNat else windowSize s.dec.wb) ≤ windowSize s.dec.wb := by
    split
    · exact h
    · exact le_refl _
  refine get_bind ?_
  dsimp only
  generalize (if s.dec.windowPos ≠ 0 then s.dec.windowPos.toNat else windowSize s.dec.wb) = stop at hstop ⊢
  split
  · exact NeverStops.raise_bind _ _ s
  · exact (readBytes (by omega)).bind fun _ t _ => NeverStops.modify _ t

theorem seqLoop (h : s.seq.isSome = true) : Proceeds seqLoop s := by
  obtain ⟨q, hq⟩ := Option.isSome_iff_exists.1 h
  refine get_bind ?_
  rw [hq]
  exact NeverStops.ite (.goto _) (.goto _) s

theorem seqFinish (h : s.seq.isSome = true) : Proceeds seqFinish s := by
  obtain ⟨q, hq⟩ := Option.isSome_iff_exists.1 h
  refine get_bind ?_
  rw [hq]
  exact NeverStops.ite (.raiseAt _ _) ((NeverStops.set _).bind fun _ => .reply _ _) s

end RunsOn

end Sys2Proof.Machine
end

section
/-! SUPPORT. A machine in the invariant never stops (spec/60_exceptions.md R270): the fetch gives an instruction that has
its place in the grammar, and such an instruction answers a next state. -/

namespace Sys2Proof.Machine

theorem State.Inv.tables {s : State} (h : s.Inv) : TablesOk s := by
  obtain ⟨-, -, ht, -, -, -, -⟩ := h
  exact ht

/-! ### Instructions in their place -/

/-- The grammar has a place for the instruction in `s` (spec/30_encoding.md R73, R94). -/
def InPlace (s : State) : Instr → Prop
  | .init _ | .decompress _ _ | .seqRun _ _ | .readState _ | .cmdReserved _ => s.phase = .idle
  | .hdrNoE8 | .hdrE8 => s.phase = .streamHdr
  | .blkVerbatim | .blkAligned | .blkUncompressed | .blkInvalid0 | .blkInvalid4to7 _ => s.phase = .blockHdr
  | .alnLens => s.phase = .alnLens
  | .preLens => ∃ r, s.phase = .preLens r
  | .preDelta _ | .preZrun4 | .preZrun20 | .preSame => ∃ r x, s.phase = .record r x ∧ x < r.last s.dec.wb
  | .mainLit _ | .mainMatchR0 _ | .mainMatchR1 _ | .mainMatchR2 _ | .mainMatchOne _ =>
    s.phase = .runLoop ∧ 0 < s.run ∧ codedBlock s.dec.blockType = true
  | .mainMatchVerb _ _ => s.phase = .runLoop ∧ 0 < s.run ∧ s.dec.blockType = 1
  | .mainMatchAlgn _ _ => s.phase = .runLoop ∧ 0 < s.run ∧ s.dec.blockType = 2
  | .lenFooter _ => ∃ slot, s.phase = .footer slot
  | .alnSym _ => ∃ length base, s.phase = .alignedSym length base
  | .uncPad => s.phase = .uncPad
  | .uncHdr => s.phase = .uncHdr
  | .uncByte => s.phase = .runLoop ∧ 0 < s.run ∧ codedBlock s.dec.blockType = false
  | .frmStd _ | .frmExplicit => s.phase = .frameHdr ∧ s.seq.isSome = true

namespace RunsOn

variable {s : State}

theorem atPhase_bind {p : Phase} {f : Unit → M Unit} (hp : s.phase = p) (hf : NeverStops (f ())) :
    Proceeds (atPhase p >>= f) s :=
  ok_bind (atPhase_ok hp) (hf s)

theorem blockHeader_bind {t : BitVec 3} {f : Unit → M Unit} (hp : s.phase = .blockHdr) (hf : NeverStops (f ())) :
    Proceeds (blockHeader t >>= f) s :=
  bind (atPhase_bind hp <| (NeverStops.readBits 16).bind fun _ => (NeverStops.readBits 8).bind fun _ => .modify _)
    fun _ u _ => hf u

theorem inRecord_bind {f : Record × Nat → M Unit} (h : ∃ r x, s.phase = .record r x ∧ x < r.last s.dec.wb)
    (hf : ∀ q, Proceeds (f q) s) : Proceeds (inRecord >>= f) s := by
  obtain ⟨r, x, hp, hx⟩ := h
  exact ok_bind (inRecord_ok hp hx) (hf _)

/-- Inside a run of a block of the right type. -/
theorem inRun_bind {ok : BitVec 3 → Bool} {f : Unit → M Unit} (hs : s.Inv)
    (h : s.phase = .runLoop ∧ 0 < s.run ∧ ok s.dec.blockType = true)
    (hf : InRun 0 s → 0 < s.run → Proceeds (f ()) s) : Proceeds (inRun ok >>= f) s := by
  obtain ⟨hp, hr, hb⟩ := h
  exact ok_bind (inRun_ok hp hr hb) (hf (hs.inRun hp (by decide) (hs.phaseOk hp)) hr)

theorem frameHdr_bind {f : SeqRegs → M Unit} (h : s.phase = .frameHdr ∧ s.seq.isSome = true)
    (hf : ∀ q, NeverStops (f q)) : Proceeds (atFrameHdr >>= f) s := by
  obtain ⟨hp, hq⟩ := h
  obtain ⟨q, hq⟩ := Option.isSome_iff_exists.1 hq
  exact ok_bind (atFrameHdr_ok hp hq) (hf q s)

theorem storeByte (h : InRun 0 s) (hr : 0 < s.run) (b : Byte) :
    Proceeds (do Machine.winWrite b; modify fun s => s.spendRun 1) s :=
  (winWrite h hr b).bind fun _ u _ => NeverStops.modify _ u

/-- The one read of a symbol inside an instruction (spec/43_block_headers.md R187). -/
theorem execPreSame (hs : s.Inv) (h : ∃ r x, s.phase = .record r x ∧ x < r.last s.dec.wb) :
    ∃ t, execPreSame s = .next t := by
  refine complete <| inRecord_bind h fun q => ?_
  refine (of_onlyCur (.readBits 1) (readBits_keeps 1)).bind fun y t hcur => get_bind ?_
  obtain ⟨hpre, -⟩ := (hs.of_onlyCur hcur).tables
  refine (decodeSym hpre).bind fun z u _ => ?_
  exact NeverStops.ite (.raise_bind _ _) (.modify _) u

theorem exec {i : Instr} (hs : s.Inv) (h : InPlace s i) : ∃ t, exec i s = .next t := by
  cases i with
  | init wb =>
    by_cases hwb : wb.toNat < 15 ∨ 21 < wb.toNat
    · exact ⟨_, exec_init_bad h hwb⟩
    · exact ⟨_, exec_init_good h hwb⟩
  | decompress outLen chunk =>
    by_cases hr : s.stat.status = .ready
    · exact ⟨_, exec_decompress_ready h hr _ _⟩
    · exact ⟨_, exec_decompress_notReady h hr _ _⟩
  | seqRun len payload =>
    by_cases hr : s.stat.status = .ready
    · exact ⟨_, exec_seqRun_ready h hr _ _⟩
    · exact ⟨_, exec_seqRun_notReady h hr _ _⟩
  | readState id => exact ⟨_, exec_readState h id⟩
  | cmdReserved w => exact ⟨_, exec_cmdReserved h w⟩
  | hdrNoE8 => exact complete <| atPhase_bind h <| .modify _
  | hdrE8 =>
    exact complete <| atPhase_bind h <| (NeverStops.readBits 16).bind fun _ => (NeverStops.readBits 16).bind fun _ =>
      .modify _
  | blkVerbatim | blkAligned => exact complete <| blockHeader_bind h <| .goto _
  | blkUncompressed =>
    exact complete <| blockHeader_bind h <| (NeverStops.modify _).bind fun _ => NeverStops.alignToRaw.bind fun _ =>
      .goto _
  | blkInvalid0 | blkInvalid4to7 => exact complete <| blockHeader_bind h <| .raise _
  | alnLens =>
    exact complete <| atPhase_bind h <| (NeverStops.readAlignedLens 8 0).bind fun _ => NeverStops.get.bind fun _ =>
      (NeverStops.build _ _).bind fun _ => .set _
  | preLens =>
    obtain ⟨r, hp⟩ := h
    refine complete <| ok_bind (atPreLens_ok hp) ?_
    exact ((NeverStops.readPreLens 20 0).bind fun _ => NeverStops.get.bind fun _ =>
      (NeverStops.build _ _).bind fun _ => .set _) s
  | preDelta => exact complete <| inRecord_bind h fun _ => NeverStops.modify _ s
  | preZrun4 => exact complete <| inRecord_bind h fun _ => (NeverStops.readBits 4).bind (fun _ => .modify _) s
  | preZrun20 => exact complete <| inRecord_bind h fun _ => (NeverStops.readBits 5).bind (fun _ => .modify _) s
  | preSame => exact execPreSame hs h
  | mainLit b => exact complete <| inRun_bind hs h fun hu hr => storeByte hu hr b
  | mainMatchR0 => exact complete <| inRun_bind hs h fun hu _ => afterHeader (matchR0 hu)
  | mainMatchR1 => exact complete <| inRun_bind hs h fun hu _ => afterHeader (matchR1 hu)
  | mainMatchR2 => exact complete <| inRun_bind hs h fun hu _ => afterHeader (matchR2 hu)
  | mainMatchOne => exact complete <| inRun_bind hs h fun hu _ => afterHeader fun _ => matchNew hu _ _
  | mainMatchVerb =>
    obtain ⟨hp, hr, hb⟩ := h
    exact complete <| inRun_bind hs ⟨hp, hr, decide_eq_true hb⟩ fun hu _ => afterHeader (matchVerb hu _)
  | mainMatchAlgn =>
    obtain ⟨hp, hr, hb⟩ := h
    exact complete <| inRun_bind hs ⟨hp, hr, decide_eq_true hb⟩ fun hu _ => afterHeader (matchAlgn hu _)
  | lenFooter f =>
    obtain ⟨slot, hp⟩ := h
    obtain ⟨hfits, hb⟩ := hs.phaseOk hp
    refine complete <| get_bind ?_
    rw [hp]
    exact offsetStep (hs.inRun hp (by simp) hfits) hb _ _
  | alnSym a =>
    obtain ⟨length, base, hp⟩ := h
    refine complete <| get_bind ?_
    rw [hp]
    exact matchNew (hs.inRun hp (by simp) (hs.phaseOk hp)) _ _
  | uncPad =>
    exact complete <| atPhase_bind h <| NeverStops.readRawByte.bind fun _ => (NeverStops.modify _).bind fun _ => .goto _
  | uncHdr =>
    exact complete <| atPhase_bind h <|
      NeverStops.readRaw32.bind fun _ => (NeverStops.modify _).bind fun _ =>
      NeverStops.readRaw32.bind fun _ => (NeverStops.modify _).bind fun _ =>
      NeverStops.readRaw32.bind fun _ => (NeverStops.modify _).bind fun _ => .goto _
  | uncByte =>
    obtain ⟨hp, hr, hb⟩ := h
    refine complete <| inRun_bind hs ⟨hp, hr, by rw [hb]; rfl⟩ fun hu hr => ?_
    have hread : RunsOn Machine.readRawByte s fun _ t => InRun 0 t ∧ 0 < t.run :=
      of_ends .readRawByte (.onlyCur (P := fun t => InRun 0 t ∧ 0 < t.run) readRawByte_keeps (fun _ _ h => h)
        (fun _ h => h.1.stored) ⟨hu, hr⟩)
    exact hread.bind fun b _ ⟨ht, hrt⟩ => storeByte ht hrt b
  | frmStd | frmExplicit => exact complete <| frameHdr_bind h fun _ => .frame _ _ _ _

end RunsOn

/-! ### The fetch -/

/-- A fetch comes to an instruction in its place, or to a next state. -/
def Fetched.GoesOn : Fetched → Prop
  | .run i t => InPlace t i
  | .done o => ∃ t, o = .next t

namespace Fetched.GoesOn

variable {s t : State}

theorem decoded {w : OpWord} {i : Instr} (hd : decode w = .ok i) (hi : InPlace t i) : (decoded w t).GoesOn := by
  unfold Machine.decoded
  rw [hd]
  exact hi

theorem rule {m : M Unit} (h : Proceeds m s) : (Fetched.done (complete m s)).GoesOn := h.complete

theorem readOpcode {m : M OpWord} (h : RunsOn m s fun w t => (Machine.decoded w t).GoesOn) :
    (readOpcode m s).GoesOn := by
  unfold RunsOn at h
  unfold Machine.readOpcode
  cases hr : m.run s with
  | ok w t => rw [hr] at h; exact h
  | error stop t =>
    rw [hr] at h
    obtain ⟨e, pos, rfl⟩ := h
    exact ⟨_, rfl⟩

/-- A field is read by moving the cursor alone, and every value of it is an opcode word. -/
theorem field {n : Nat} {mk : BitVec n → OpWord} (h : ∀ f c, (Machine.decoded (mk f) { s with cur := c }).GoesOn) :
    (Machine.readOpcode (do let f ← readBits n; pure (mk f)) s).GoesOn := by
  refine readOpcode <| (RunsOn.of_onlyCur (.readBits n) (readBits_keeps n)).bind fun f t ht =>
    .of_ok (EStateM.run_pure _ _) ?_
  rw [ht]
  exact h f _

/-- A symbol of a complete table is of its alphabet (spec/41_huffman.md R125), so it is an opcode word. -/
theorem symbol {n k : Nat} {table : DecodeTable} {mk : BitVec n → OpWord} (htable : TableOk k table) (hk : k ≤ 2 ^ n)
    (h : ∀ z : BitVec n, z.toNat < k → ∀ c, (Machine.decoded (mk z) { s with cur := c }).GoesOn) :
    (Machine.readOpcode (do let z ← decodeSym table; symbolWord mk z) s).GoesOn := by
  refine readOpcode <| (RunsOn.decodeSym htable).bind fun sym t ⟨hsym, ht⟩ => ?_
  have hfits : sym < 2 ^ n := by omega
  rw [symbolWord, if_pos hfits, ht]
  refine .of_ok (EStateM.run_pure _ _) (h _ ?_ _)
  rwa [BitVec.toNat_ofNat, Nat.mod_eq_of_lt hfits]

/-! What each format of opcode word decodes to has its place where the word is read. -/

theorem decodeCommand (hp : t.phase = .idle) (c : HostCommand) (draw : Nat) :
    InPlace t (decodeCommand c draw) := by
  unfold Sys2Proof.decodeCommand
  cases cmdKind c.word <;> exact hp

theorem decodeHdr (hp : t.phase = .streamHdr) (f : BitVec 1) : InPlace t (decodeHdr f) := by
  unfold Sys2Proof.decodeHdr
  split <;> exact hp

theorem decodeBlk (hp : t.phase = .blockHdr) (b : BitVec 3) : InPlace t (decodeBlk b) := by
  unfold Sys2Proof.decodeBlk
  split_ifs <;> exact hp

theorem pre {r : Record} {x : Nat} (hp : t.phase = .record r x) (hx : x < r.last t.dec.wb) {z : BitVec 5}
    (hz : z.toNat < 20) : (Machine.decoded (.pre z) t).GoesOn := by
  have hplace : ∃ r x, t.phase = .record r x ∧ x < r.last t.dec.wb := ⟨r, x, hp, hx⟩
  have hcases : z.toNat ≤ 16 ∨ z = 17 ∨ z = 18 ∨ z = 19 := by bv_omega
  rcases hcases with hz | rfl | rfl | rfl
  · exact decoded (i := .preDelta z) (if_pos hz) hplace
  · exact decoded (i := .preZrun4) rfl hplace
  · exact decoded (i := .preZrun20) rfl hplace
  · exact decoded (i := .preSame) rfl hplace

theorem decodeMatch (hp : t.phase = .runLoop) (hr : 0 < t.run) (hb : t.dec.blockType = 1 ∨ t.dec.blockType = 2)
    (slot : BitVec 6) (lh : BitVec 3) : InPlace t (decodeMatch t.dec.blockType slot lh) := by
  unfold Sys2Proof.decodeMatch
  split_ifs with h0 h1 h2 h3 hverb
  iterate 4 exact ⟨hp, hr, codedBlock_of_types hb⟩
  · exact ⟨hp, hr, hverb⟩
  · exact ⟨hp, hr, hb.resolve_left hverb⟩

theorem main (hp : t.phase = .runLoop) (hr : 0 < t.run) (hb : t.dec.blockType = 1 ∨ t.dec.blockType = 2)
    {m : BitVec 10} (hm : m.toNat < 656) : (Machine.decoded (.main t.dec.blockType m) t).GoesOn := by
  have hcoded : ¬ (t.dec.blockType ≠ 1 ∧ t.dec.blockType ≠ 2) := by tauto
  by_cases hlit : m.toNat < 256
  · exact decoded (i := .mainLit (m.setWidth 8)) (by rw [decode, decodeMain, if_neg hcoded, if_pos hlit])
      ⟨hp, hr, codedBlock_of_types hb⟩
  · exact decoded (by rw [decode, decodeMain, if_neg hcoded, if_neg hlit, if_pos (by omega)])
      (decodeMatch hp hr hb (matchSlot m) (matchLh m))

theorem len {slot : BitVec 6} (hp : t.phase = .footer slot) {f : BitVec 8} (hf : f.toNat < 250) :
    (Machine.decoded (.len f) t).GoesOn :=
  decoded (i := .lenFooter f) (if_pos (by omega)) ⟨slot, hp⟩

theorem frm (hp : t.phase = .frameHdr) (hq : t.seq.isSome = true) (h0 : Byte) :
    (Machine.decoded (.frm h0) t).GoesOn := by
  refine decoded rfl ?_
  unfold decodeFrm
  split <;> exact ⟨hp, hq⟩

/-! What each phase fetches. -/

theorem fetchCommand (hp : s.phase = .idle) : (fetchCommand s).GoesOn := by
  unfold Machine.fetchCommand
  cases s.pending with
  | nil => exact ⟨s, rfl⟩
  | cons c rest => exact decoded rfl (decodeCommand (t := s.takeCommand c rest) hp c _)

theorem fetchFrame (hp : s.phase = .frameHdr) (hq : s.seq.isSome = true) : (fetchFrame s).GoesOn := by
  obtain ⟨q, hs⟩ := Option.isSome_iff_exists.1 hq
  unfold Machine.fetchFrame
  rw [hs]
  dsimp only
  cases q.payload[q.pos]? with
  | none => exact rule (NeverStops.raiseAt _ _ s)
  | some h0 => exact frm hp hq h0

theorem fetchRecord {r : Record} {x : Nat} (hs : s.Inv) (hp : s.phase = .record r x) : (fetchRecord r x s).GoesOn := by
  obtain ⟨hpre, -⟩ := hs.tables
  unfold Machine.fetchRecord
  split
  · next hx => exact symbol hpre (by decide) fun z hz c => pre (t := { s with cur := c }) hp hx hz
  · exact rule (NeverStops.endRecord r s)

theorem fetchRun (hs : s.Inv) (hp : s.phase = .runLoop) : (fetchRun s).GoesOn := by
  obtain ⟨-, hmain, -⟩ := hs.tables
  unfold Machine.fetchRun
  by_cases hrun : s.run = 0
  · rw [if_pos hrun]
    exact ⟨_, rfl⟩
  rw [if_neg hrun]
  have hr : 0 < s.run := Nat.pos_of_ne_zero hrun
  split
  · next hb => exact symbol hmain (by decide) fun m hm c => main (t := { s with cur := c }) hp hr hb hm
  · next hb =>
    have hraw : codedBlock s.dec.blockType = false :=
      Bool.eq_false_iff.2 fun hcoded => hb (codedBlock_types _ hcoded)
    exact decoded rfl ⟨hp, hr, hraw⟩

theorem fetch (hs : s.Inv) : (fetch s).GoesOn := by
  unfold Machine.fetch
  cases hp : s.phase with
  | idle => exact fetchCommand hp
  | seqLoop => exact rule (.seqLoop (hs.phaseOk hp))
  | frameHdr => exact fetchFrame hp (hs.phaseOk hp)
  | seqFinish => exact rule (.seqFinish (hs.phaseOk hp))
  | streamHdr => exact field fun f c => decoded rfl (decodeHdr (t := { s with cur := c }) hp f)
  | mainLoop => exact rule (NeverStops.mainLoop s)
  | uncPad | alnLens | uncHdr => exact decoded rfl hp
  | blockHdr => exact field fun b c => decoded rfl (decodeBlk (t := { s with cur := c }) hp b)
  | preLens r => exact decoded rfl ⟨r, hp⟩
  | record r x => exact fetchRecord hs hp
  | runLoop => exact fetchRun hs hp
  | footer slot =>
    obtain ⟨-, -, hlength, -⟩ := hs.tables
    exact symbol hlength (by decide) fun f hf c => len (t := { s with cur := c }) hp hf
  | alignedSym length base =>
    obtain ⟨-, -, -, haligned⟩ := hs.tables
    exact symbol haligned (by decide) fun a _ c => decoded rfl ⟨length, base, hp⟩
  | frameOutput =>
    obtain ⟨⟨-, -, ⟨-, -, hpos, -⟩, -⟩, -⟩ := hs.busy hp (by decide)
    exact rule (.frameOutput hpos)
  | e8Pass => exact rule (NeverStops.e8Pass s)
  | deliver => exact rule (NeverStops.deliver s)

end Fetched.GoesOn

/-- Settles O56: a fetch comes to a next state, or to an instruction that has its place in a state of the invariant, and
that answers one. -/
theorem runningMachineNeverStops : Obligations.RunningMachineNeverStops := by
  intro s hs
  have hinv := Ends.fetch hs
  have hfetch := Fetched.GoesOn.fetch hs
  unfold step
  cases hf : fetch s with
  | run i t =>
    rw [hf] at hinv hfetch
    exact RunsOn.exec hinv.1 hfetch
  | done o =>
    rw [hf] at hfetch
    exact hfetch

end Sys2Proof.Machine
end

section
/-! SUPPORT. Errors (spec/60_exceptions.md R250 to R258): what a raise records, which commands are refused, and that
FAULTED stays until an INIT succeeds. -/

namespace Sys2Proof.Machine

/-! ### Refused commands (R256) -/

/-- Between commands a result for the host is the only thing new. -/
theorem reply_of_idle {s : State} (hp : s.phase = .idle) (r : Reply) :
    s.reply r = { s with replies := s.replies ++ [r] } := by
  rw [State.reply, ← hp]

/-- A reserved code or a reserved bit makes a command word a refused one (spec/30_encoding.md R70, R71,
spec/42_commands.md R156). -/
theorem cmdKind_reserved {w : Word}
    (h : cmdReservedLow w ≠ 0 ∨ cmdReservedHigh w ≠ 0 ∨ cmdOp w = 0 ∨ 5 ≤ (cmdOp w).toNat ∨
      ((cmdOp w = 2 ∨ cmdOp w = 3) ∧ cmdArg w ≠ 0)) : cmdKind w = .reserved := by
  unfold cmdKind
  by_cases hbits : cmdReservedLow w ≠ 0 ∨ cmdReservedHigh w ≠ 0
  · rw [if_pos hbits]
  have hcode : cmdOp w = 0 ∨ 5 ≤ (cmdOp w).toNat ∨ ((cmdOp w = 2 ∨ cmdOp w = 3) ∧ cmdArg w ≠ 0) := by tauto
  rw [if_neg hbits]
  rcases hcode with hop | hop | ⟨hop | hop, harg⟩
  · simp [hop]
  · obtain ⟨h1, h2, h3, h4⟩ : cmdOp w ≠ 1 ∧ cmdOp w ≠ 2 ∧ cmdOp w ≠ 3 ∧ cmdOp w ≠ 4 := by bv_omega
    rw [if_neg h1, if_neg h2, if_neg h3, if_neg h4]
  · rw [if_neg (by rw [hop]; decide), if_pos hop, if_neg harg]
  · rw [if_neg (by rw [hop]; decide), if_neg (by rw [hop]; decide), if_pos hop, if_neg harg]

/-- A refused word takes neither operand word nor byte. -/
theorem decodeCommand_reserved {c : HostCommand} (hk : cmdKind c.word = .reserved) (draw : Nat) :
    decodeCommand c draw = .cmdReserved c.word := by
  rw [decodeCommand, hk]

/-- Out of READY a DECOMPRESS or SEQ_RUN is refused whatever comes with it. -/
theorem exec_decodeCommand_notReady {s : State} (hp : s.phase = .idle) (hr : s.stat.status ≠ .ready) {c : HostCommand}
    (draw : Nat) (hk : cmdKind c.word = .decompress ∨ cmdKind c.word = .seqRun) :
    exec (decodeCommand c draw) s = .next (s.reply { status := errCode .notReady, data := .none }) := by
  unfold decodeCommand
  rcases hk with hk | hk <;> rw [hk]
  · exact exec_decompress_notReady hp hr _ _
  · exact exec_seqRun_notReady hp hr _ _

section step

variable {s : State} {c : HostCommand} {rest : List HostCommand}

theorem step_reserved (hp : s.phase = .idle) (hc : s.pending = c :: rest) (hk : cmdKind c.word = .reserved) :
    step s = .next { s with pending := rest, replies := s.replies ++ [{ status := 11, data := .none }] } := by
  rw [step_command hp hc, decodeCommand_reserved hk, takeCommand_eq (.inr (fallsShort_reserved hk)),
    exec_cmdReserved (s := { s with pending := rest }) hp, reply_of_idle (s := { s with pending := rest }) hp]
  rfl

theorem step_notReady (hp : s.phase = .idle) (hc : s.pending = c :: rest) (hr : s.stat.status ≠ .ready)
    (hk : cmdKind c.word = .decompress ∨ cmdKind c.word = .seqRun) :
    step s = .next { s with pending := rest, replies := s.replies ++ [{ status := 9, data := .none }] } := by
  rw [step_command hp hc, takeCommand_eq (.inl hr),
    exec_decodeCommand_notReady (s := { s with pending := rest }) hp hr _ hk,
    reply_of_idle (s := { s with pending := rest }) hp]
  rfl

end step

/-- Settles O4: each refused command by its result, and a step between commands by the command it takes. -/
theorem refusedCommandsChangeNothing : Obligations.RefusedCommandsChangeNothing := by
  refine ⟨fun s n bs hp hr => ⟨?_, ?_⟩, fun s w hp => ?_, fun s c rest hp hc => ⟨fun hw hr => ?_, fun hw => ?_⟩⟩
  · rw [exec_decompress_notReady hp hr, reply_of_idle hp]
    rfl
  · rw [exec_seqRun_notReady hp hr, reply_of_idle hp]
    rfl
  · rw [exec_cmdReserved hp, reply_of_idle hp]
    rfl
  · refine step_notReady hp hc hr (hw.imp (fun h => ?_) fun h => ?_)
    · exact h ▸ cmdKind_decompress
    · exact h ▸ cmdKind_seqRun
  · have hk : cmdKind c.word = .reserved := cmdKind_reserved hw
    exact ⟨fun draw => congrArg Except.ok (decodeCommand_reserved hk draw), step_reserved hp hc hk⟩

/-! ### FAULTED (R258) -/

/-- Out of READY a command that is no INIT returns a result and does nothing else. -/
theorem exec_decodeCommand_replies {s : State} (hp : s.phase = .idle) (hr : s.stat.status ≠ .ready) {c : HostCommand}
    (draw : Nat) (hk : cmdKind c.word ≠ .init) : ∃ r, exec (decodeCommand c draw) s = .next (s.reply r) := by
  unfold decodeCommand
  cases hc : cmdKind c.word with
  | init => exact absurd hc hk
  | decompress => exact ⟨_, exec_decompress_notReady hp hr _ _⟩
  | seqRun => exact ⟨_, exec_seqRun_notReady hp hr _ _⟩
  | readState => exact ⟨_, exec_readState hp _⟩
  | reserved => exact ⟨_, exec_cmdReserved hp _⟩

/-- No command is in progress out of READY (R256, R257). -/
theorem State.Inv.idle {s : State} (h : s.Inv) (hr : s.stat.status ≠ .ready) : s.phase = .idle := by
  obtain ⟨-, -, -, -, hbusy, -, -⟩ := h
  exact not_not.1 fun hp => hr (hbusy hp)

/-- Settles O43: a FAULTED block is idle, and of the commands it takes only an INIT does more than return a result. -/
theorem faultedIsSticky : Obligations.FaultedIsSticky := by
  intro s t hs hf h
  have hr : s.stat.status ≠ .ready := by
    rw [hf]
    decide
  have hp := hs.idle hr
  cases hc : s.pending with
  | nil =>
    cases (step_idle hp hc).symm.trans h
    exact ⟨fun _ => hf, fun _ => ⟨rfl, rfl, hp⟩⟩
  | cons c rest =>
    rw [step_command hp hc] at h
    by_cases hk : cmdKind c.word = .init
    · have hd : decodeCommand c s.draws = .init (cmdArg c.word) := by rw [decodeCommand, hk]
      refine ⟨fun hbad => ?_, fun hno => absurd (congrArg Except.ok hd) (hno c rest _ rfl)⟩
      rw [hd, exec_init_bad (s := s.takeCommand c rest) hp (hbad c rest _ rfl (congrArg Except.ok hd))] at h
      cases h
      rfl
    · obtain ⟨r, hreply⟩ := exec_decodeCommand_replies (s := s.takeCommand c rest) hp hr s.draws hk
      cases hreply.symm.trans h
      exact ⟨fun _ => hf, fun _ => ⟨rfl, rfl, rfl⟩⟩

/-! ### What a raise records (R250, R251, R257) -/

theorem position_eq_ite (c : Cursor) :
    c.position = if c.mode = .bit then 8 * c.segBase.toNat + c.c.toNat else 8 * c.inPos.toNat := by
  unfold Cursor.position
  cases c.mode <;> rfl

/-- Settles O42: completing an operation that raises is fault entry in the state it left. -/
theorem raiseRecordsAndAborts : Obligations.RaiseRecordsAndAborts := by
  refine ⟨⟨rfl, fun _ => rfl, rfl, fun _ => rfl, rfl, rfl, rfl, rfl, rfl, rfl, rfl⟩,
    ⟨rfl, rfl, rfl, rfl, rfl, rfl, rfl, rfl, rfl, fun e htable hoverrun => ?_⟩, fun m s u e pos h => ?_⟩
  · cases e with
    | malformedHuffmanTable cause => exact absurd rfl (htable cause)
    | windowOverrun cause => exact absurd rfl (hoverrun cause)
    | _ => rfl
  · rw [complete_raise h, State.enterFault, position_eq_ite]
    cases pos <;> rfl

end Sys2Proof.Machine
end
